-- ==== Sys2Proof/Word.lean ====
section
/-! DEFINITION. The word types of the FE25519/SHA-512 unit: what the spec treats as bits, and nothing else. -/

namespace Sys2Proof

/-- One byte, `DB(j)` of the field I/O buffer (rules R12, R88). -/
abbrev Byte := BitVec 8

/-- The 32-bit bus word: a window register, a command word, a value read or written (rules R8, R81). -/
abbrev Word := BitVec 32

/-- A 64-bit SHA-512 word (rules R9, R10, R44, R46). -/
abbrev Lane := BitVec 64

/-- The 128-bit length counter (rule R47). -/
abbrev Count := BitVec 128

/-- A byte offset inside the 4096-byte register window, `offset[11:0]` of the slave port (rules R57, R80). -/
abbrev Offset := BitVec 12

end Sys2Proof
end

