-- ==== Sys2Proof/Config.lean ====
section
/-! DEFINITION. The implementation parameters of rule R8: the fixed ones as numbers, the two OPEN ones
(`MMIO_BASE`, `LAT`) as constants without a body, so that no proof can use a value of theirs. -/

namespace Sys2Proof.Config

/-- The field modulus `p = 2^255 − 19` (rules R3, R8). -/
def P : Nat := 2 ^ 255 - 19

theorem P_pos : 0 < P := by decide

/-- Limbs of a field element (rule R8, `NLIMB`). -/
abbrev nLimb : Nat := 10

/-- Field registers F0–F15 (rules R8, R35, `NFR`). -/
abbrev nFR : Nat := 16

/-- The greatest depth a field register may have (rules R8, R40, `D_MAX`). -/
abbrev dMax : Nat := 1

/-- Depth-0 limb bound `B0 = 2^26 + 2^6` (rule R41). -/
def B0 : Nat := 2 ^ 26 + 2 ^ 6

/-- Depth-1 limb bound `B1 = 2·B0 = 2^27 + 2^7` (rule R41). -/
def B1 : Nat := 2 * B0

/-- What the ID register reads (rules R2, R56). -/
def idValue : Word := 0x25519001

/-- Bytes of the register window (rules R8, R80). -/
abbrev windowBytes : Nat := 4096

/-- OPEN (rules R8, R32, R80): the platform's address of the register window. -/
opaque mmioBase : Nat

/-- OPEN (rules R8, R322, R323): what `LAT` exceeds 1 by, for an opcode byte and for whether the command
is rejected; nothing else may determine it. -/
opaque latencyBeyondOne : Byte → Bool → Nat

/-- The latency `LAT` in clock cycles, at least 1 and finite (rules R8, R322). The machine has no time and no
definition of the step reads this parameter; rule R323's "depends only on the opcode and on whether the command
is rejected" is its type (DEDUCED, log entry 6). -/
def latency (opc : Byte) (rejected : Bool) : Nat := latencyBeyondOne opc rejected + 1

/-- The bus address of a window offset (rule R80). -/
def busAddress (off : Offset) : Nat := mmioBase + off.toNat

/-- The window offset of a bus address, `none` outside the window, where the platform decides what happens
(rules R80, R85; DEDUCED, log entry 5). -/
def windowOffset (addr : Nat) : Option Offset :=
  if mmioBase ≤ addr ∧ addr < mmioBase + windowBytes then some (BitVec.ofNat 12 (addr - mmioBase)) else none

end Sys2Proof.Config
end

