-- ==== Sys2Proof/Syntax.lean ====
section
/-! DEFINITION. The commands of the FE25519U command set, version 1 (rule R2): one constructor per row of
spec/opcode_table.json, and the one command format `C` of rule R131 as five raw fields. -/

namespace Sys2Proof

/-- A field register index 0..15: every 4-bit value names a register (rules R35, R132). -/
abbrev Reg := Fin Config.nFR

/-- The twelve commands with their free operands (rule R134). Operands a command does not use are no part of it:
their fields must be 0 in the word (rule R138). -/
inductive Instr where
  /-- R160 -/
  | nop
  /-- R161 -/
  | fzero (rd : Reg)
  /-- R162 -/
  | fone (rd : Reg)
  /-- R163 -/
  | fload (rd : Reg)
  /-- R165 -/
  | fstore (rs1 : Reg)
  /-- R191 -/
  | fadd (rd rs1 rs2 : Reg)
  /-- R193 -/
  | fsub (rd rs1 rs2 : Reg)
  /-- R195 -/
  | fmul (rd rs1 rs2 : Reg)
  /-- R198 -/
  | fsqr (rd rs1 : Reg)
  /-- R200 -/
  | finv (rd rs1 : Reg)
  /-- R237 -/
  | sinit
  /-- R240 -/
  | scomp
  deriving DecidableEq, Repr

/-- The twelve defined opcodes, the OPC column of rule R134. -/
inductive Opcode where
  | nop | fzero | fone | fload | fstore | fadd | fsub | fmul | fsqr | finv | sinit | scomp
  deriving DecidableEq, Repr

/-- A command word taken apart by format `C` (rule R131), whatever its fields hold. -/
structure Command where
  /-- bits 7:0 -/
  opc : BitVec 8
  /-- bits 11:8 -/
  rd : BitVec 4
  /-- bits 15:12 -/
  rs1 : BitVec 4
  /-- bits 19:16 -/
  rs2 : BitVec 4
  /-- bits 31:20 -/
  rsvd : BitVec 12
  deriving DecidableEq, Repr

end Sys2Proof
end

