-- ==== Sys2Proof/WellFormed.lean ====
section
/-! DEFINITION. What makes a command word of format `C` well-formed, check by check, from the RD, RS1 and RS2 columns
of rule R134 and from rules R137 and R138. The decoder works from the mask and match columns instead; that the two
agree is a statement about the model. -/

namespace Sys2Proof

/-- Which register fields a command uses; the others must be 0 (rule R134). -/
structure FieldUse where
  rd : Bool
  rs1 : Bool
  rs2 : Bool
  deriving DecidableEq, Repr

/-- The RD, RS1 and RS2 columns of rule R134 for an OPC byte; `none` for the 244 undefined ones (rule R137). -/
def fieldUse (opc : BitVec 8) : Option FieldUse :=
  if opc = 0x00#8 ∨ opc = 0x10#8 ∨ opc = 0x11#8 then some ⟨false, false, false⟩
  else if opc = 0x01#8 ∨ opc = 0x02#8 ∨ opc = 0x03#8 then some ⟨true, false, false⟩
  else if opc = 0x04#8 then some ⟨false, true, false⟩
  else if opc = 0x05#8 ∨ opc = 0x06#8 ∨ opc = 0x07#8 then some ⟨true, true, true⟩
  else if opc = 0x08#8 ∨ opc = 0x09#8 then some ⟨true, true, false⟩
  else none

/-- Check 1: the opcode is one of the twelve (rule R137). -/
def Command.opcodeDefined (c : Command) : Bool := (fieldUse c.opc).isSome

/-- Check 2: bits 31:20 are 0 (rule R138). -/
def Command.reservedZero (c : Command) : Bool := c.rsvd == 0

/-- Check 3: RD is 0 where the opcode does not use it (rule R138). -/
def Command.unusedRdZero (c : Command) : Bool := (fieldUse c.opc).all (fun u => u.rd || c.rd == 0)

/-- Check 4: RS1 is 0 where the opcode does not use it (rule R138). -/
def Command.unusedRs1Zero (c : Command) : Bool := (fieldUse c.opc).all (fun u => u.rs1 || c.rs1 == 0)

/-- Check 5: RS2 is 0 where the opcode does not use it (rule R138). -/
def Command.unusedRs2Zero (c : Command) : Bool := (fieldUse c.opc).all (fun u => u.rs2 || c.rs2 == 0)

/-- All checks together: the words that are commands and not illegal encodings. -/
def Command.wellFormed (c : Command) : Bool :=
  c.opcodeDefined && c.reservedZero && c.unusedRdZero && c.unusedRs1Zero && c.unusedRs2Zero

/-- The operands of an instruction, destination first (rule R142). -/
def Instr.operands : Instr → List Reg
  | .nop => []
  | .fzero rd => [rd]
  | .fone rd => [rd]
  | .fload rd => [rd]
  | .fstore rs1 => [rs1]
  | .fadd rd rs1 rs2 => [rd, rs1, rs2]
  | .fsub rd rs1 rs2 => [rd, rs1, rs2]
  | .fmul rd rs1 rs2 => [rd, rs1, rs2]
  | .fsqr rd rs1 => [rd, rs1]
  | .finv rd rs1 => [rd, rs1]
  | .sinit => []
  | .scomp => []

/-- The field register an instruction writes, the one its RD field names; NOP, FSTORE, SINIT and SCOMP write none
(rules R35, R132). -/
def Instr.fieldDest : Instr → Option Reg
  | .nop => none
  | .fzero rd => some rd
  | .fone rd => some rd
  | .fload rd => some rd
  | .fstore _ => none
  | .fadd rd _ _ => some rd
  | .fsub rd _ _ => some rd
  | .fmul rd _ _ => some rd
  | .fsqr rd _ => some rd
  | .finv rd _ => some rd
  | .sinit => none
  | .scomp => none

/-- An instruction is well-formed when each operand names one of the sixteen field registers. The type of the
operands already says so ("no register index is out of range", rule R132), so every term meets it. -/
abbrev Instr.WellFormed (i : Instr) : Prop := ∀ r ∈ i.operands, r.val < Config.nFR

end Sys2Proof
end

