-- ==== Sys2Proof/Decode.lean ====
section
/-! DEFINITION. Command decoding, total over all 2^32 words and rejecting by name (rules R131–R138), and then the
encoder (rule R135). -/

namespace Sys2Proof

/-- Why a word is no command: the two illegal encodings of rule R136. -/
inductive DecodeError where
  /-- OPC names no command (rule R137): the completion records E_OPCODE. -/
  | opcode
  /-- RSVD or an unused register field is not 0 (rule R138): the completion records E_RSVD. -/
  | rsvd
  deriving DecidableEq, Repr

/-- A word taken apart by format `C` (rule R131). -/
def fieldsOf (v : Word) : Command where
  opc := v.extractLsb' 0 8
  rd := v.extractLsb' 8 4
  rs1 := v.extractLsb' 12 4
  rs2 := v.extractLsb' 16 4
  rsvd := v.extractLsb' 20 12

/-- The opcode an OPC byte names, if it names one (rules R134, R137). -/
def Opcode.named (opc : BitVec 8) : Option Opcode :=
  if opc = 0x00#8 then some .nop
  else if opc = 0x01#8 then some .fzero
  else if opc = 0x02#8 then some .fone
  else if opc = 0x03#8 then some .fload
  else if opc = 0x04#8 then some .fstore
  else if opc = 0x05#8 then some .fadd
  else if opc = 0x06#8 then some .fsub
  else if opc = 0x07#8 then some .fmul
  else if opc = 0x08#8 then some .fsqr
  else if opc = 0x09#8 then some .finv
  else if opc = 0x10#8 then some .sinit
  else if opc = 0x11#8 then some .scomp
  else none

/-- The mask column of rule R134. -/
def Opcode.mask : Opcode → Word
  | .nop => 0xFFFFFFFF
  | .fzero => 0xFFFFF0FF
  | .fone => 0xFFFFF0FF
  | .fload => 0xFFFFF0FF
  | .fstore => 0xFFFF0FFF
  | .fadd => 0xFFF000FF
  | .fsub => 0xFFF000FF
  | .fmul => 0xFFF000FF
  | .fsqr => 0xFFFF00FF
  | .finv => 0xFFFF00FF
  | .sinit => 0xFFFFFFFF
  | .scomp => 0xFFFFFFFF

/-- The match column of rule R134. -/
def Opcode.pattern : Opcode → Word
  | .nop => 0x00000000
  | .fzero => 0x00000001
  | .fone => 0x00000002
  | .fload => 0x00000003
  | .fstore => 0x00000004
  | .fadd => 0x00000005
  | .fsub => 0x00000006
  | .fmul => 0x00000007
  | .fsqr => 0x00000008
  | .finv => 0x00000009
  | .sinit => 0x00000010
  | .scomp => 0x00000011

/-- The command of an opcode and the operand fields it uses (rules R132, R134). -/
def Opcode.instr (op : Opcode) (c : Command) : Instr :=
  match op with
  | .nop => .nop
  | .fzero => .fzero c.rd.toFin
  | .fone => .fone c.rd.toFin
  | .fload => .fload c.rd.toFin
  | .fstore => .fstore c.rs1.toFin
  | .fadd => .fadd c.rd.toFin c.rs1.toFin c.rs2.toFin
  | .fsub => .fsub c.rd.toFin c.rs1.toFin c.rs2.toFin
  | .fmul => .fmul c.rd.toFin c.rs1.toFin c.rs2.toFin
  | .fsqr => .fsqr c.rd.toFin c.rs1.toFin
  | .finv => .finv c.rd.toFin c.rs1.toFin
  | .sinit => .sinit
  | .scomp => .scomp

/-- `decode(v)` of rule R136: the opcode first, then the mask and match of its row. -/
def decode (v : Word) : Except DecodeError Instr :=
  match Opcode.named (v.extractLsb' 0 8) with
  | none => .error .opcode
  | some op => if v &&& op.mask = op.pattern then .ok (op.instr (fieldsOf v)) else .error .rsvd

/-- The fields of an instruction's command: its opcode (rule R134), its operands, 0 elsewhere (rule R135). -/
def Instr.command : Instr → Command
  | .nop => ⟨0x00, 0, 0, 0, 0⟩
  | .fzero rd => ⟨0x01, .ofFin rd, 0, 0, 0⟩
  | .fone rd => ⟨0x02, .ofFin rd, 0, 0, 0⟩
  | .fload rd => ⟨0x03, .ofFin rd, 0, 0, 0⟩
  | .fstore rs1 => ⟨0x04, 0, .ofFin rs1, 0, 0⟩
  | .fadd rd rs1 rs2 => ⟨0x05, .ofFin rd, .ofFin rs1, .ofFin rs2, 0⟩
  | .fsub rd rs1 rs2 => ⟨0x06, .ofFin rd, .ofFin rs1, .ofFin rs2, 0⟩
  | .fmul rd rs1 rs2 => ⟨0x07, .ofFin rd, .ofFin rs1, .ofFin rs2, 0⟩
  | .fsqr rd rs1 => ⟨0x08, .ofFin rd, .ofFin rs1, 0, 0⟩
  | .finv rd rs1 => ⟨0x09, .ofFin rd, .ofFin rs1, 0, 0⟩
  | .sinit => ⟨0x10, 0, 0, 0, 0⟩
  | .scomp => ⟨0x11, 0, 0, 0, 0⟩

/-- The word of a command: its five fields side by side, RSVD highest (rule R131). -/
def Command.word (c : Command) : Word := c.rsvd ++ c.rs2 ++ c.rs1 ++ c.rd ++ c.opc

/-- `enc` of rule R135: unused operands are 0. -/
def encode (i : Instr) : Word := i.command.word

/-- The instruction the decoder reads from a word of `nbits` bits numbered as spec/opcode_table.json numbers them;
bits from `nbits` up are 0 and a command is one 32-bit word (rule R130; DESIGN CHOICE, log entry 15). -/
def decodeTableWord (nbits w : Nat) : Option Instr :=
  match decode (BitVec.ofNat 32 (w % 2 ^ nbits)) with
  | .ok i => some i
  | .error _ => none

end Sys2Proof
end

