-- ==== Sys2Proof/Machine/State.lean ====
section
/-! DEFINITION. The state of the unit (rule R31), the events that reach it (rules R30, R57, R81, R310), and the state
after reset (rule R59). -/

namespace Sys2Proof.Machine

open Sys2Proof.Config

/-- A field value: the unique member of a residue class in `[0, p)` (rule R36). -/
abbrev Fp := Fin P

/-- A depth tag, 0 .. `D_MAX` (rule R40). -/
abbrev Depth := Fin (dMax + 1)

/-- The architectural content of a field register, (value, depth) (rule R36). Its limbs are not observable (rule R42)
and stand in Machine/Limbs.lean, outside the state. -/
structure FReg where
  value : Fp
  depth : Depth
  deriving DecidableEq, Repr

/-- The access width a bus master requests, `size ∈ {1, 2, 4}` bytes (rules R57, R81). -/
inductive Size where
  | one | two | four
  deriving DecidableEq, Repr

/-- What reaches the unit, one event a step (rules R30, R81, R310). -/
inductive Input where
  /-- `MemRead(off, size)` (rule R81) -/
  | read (off : Offset) (size : Size)
  /-- `MemWrite(off, size, v)` (rule R81) -/
  | write (off : Offset) (size : Size) (v : Word)
  /-- the engine's turn: the pending command, if there is one, completes here (rules R30, R271, R322) -/
  | engine
  /-- `rst_n` is driven low (rule R310) -/
  | resetLow
  /-- `rst_n` is driven high (rule R310) -/
  | resetHigh
  deriving DecidableEq, Repr

/-- The five errors of rule R272. -/
inductive ErrCode where
  /-- E_OPCODE (rule R273) -/
  | opcode
  /-- E_RSVD (rule R274) -/
  | rsvd
  /-- E_DEPTH (rule R275) -/
  | depth
  /-- E_BUSY (rule R277) -/
  | busy
  /-- E_ACCESS (rule R278) -/
  | access
  deriving DecidableEq, Repr

/-- The registers of the window (rule R86). -/
inductive WinReg where
  | ctrl | status | cmd | id | fdepth
  | data (k : Fin 8)
  | hLo (i : Fin 8)
  | hHi (i : Fin 8)
  | wLo (t : Fin 16)
  | wHi (t : Fin 16)
  | mlen (m : Fin 4)
  | reserved
  deriving DecidableEq, Repr

/-- The state: rule R31's table, then three fields that are the model's own (DESIGN CHOICE, log entries 1, 3
and 4). No register is missing a reset value, and no value is left free (log entry 17). -/
structure State where
  /-- `F[0..15]` (rules R35, R36, R40) -/
  f : Vector FReg nFR
  /-- `DATA[0..7]` (rule R43) -/
  data : Vector Word 8
  /-- `H[0..7]` (rule R44) -/
  h : Vector Lane 8
  /-- `W[0..15]` (rule R46) -/
  w : Vector Lane 16
  /-- `MLEN` (rule R47) -/
  mlen : Count
  /-- `CTRL.IE` (rule R48) -/
  ie : Bool
  /-- `STATUS.BUSY` (rule R49) -/
  busy : Bool
  /-- `STATUS.DONE` (rule R49) -/
  done : Bool
  /-- `STATUS.ERR` (rule R49) -/
  err : Bool
  /-- `STATUS.ERRCODE` (rules R49, R272) -/
  errcode : BitVec 4
  /-- `LASTCMD` (rule R50) -/
  lastcmd : Word
  /-- `PEND` (rule R53) -/
  pend : Word
  /-- the level of the `rst_n` input, true is high (rules R57, R310) -/
  rstn : Bool
  /-- the events still to come, the next one first: the host's transactions and reset in their order of arrival,
  and where among them the engine takes its turn (rules R30, R105, R322) -/
  inputs : List Input
  /-- the values `MemRead` has returned, the latest first (rule R81) -/
  replies : List Word
  deriving DecidableEq, Repr

/-- No step of this unit faults: an error is recorded in STATUS and nothing hangs or halts (rules R85, R270, R286,
93_implementation_defined.md "stuck: not used"). So there is no reason to name, and nobody raises one (DEDUCED, safe, log entry 14). -/
inductive Fault where
  deriving DecidableEq, Repr

/-- The reasons an instruction has no meaning in this model. -/
inductive Refusal where
  /-- an arm of exec whose instruction is not modelled yet; no arm answers so (safe) -/
  | notModelled (mnemonic : String)
  deriving DecidableEq, Repr

/-- The state after reset (rules R59, R311, R312): every register 0, the unit idle, `rst_n` high again; no event
waits and nothing has been read (DESIGN CHOICE for the model's own three fields, log entry 16). -/
def State.reset : State where
  f := Vector.replicate nFR ⟨⟨0, P_pos⟩, 0⟩
  data := Vector.replicate 8 0
  h := Vector.replicate 8 0
  w := Vector.replicate 16 0
  mlen := 0
  ie := false
  busy := false
  done := false
  err := false
  errcode := 0
  lastcmd := 0
  pend := 0
  rstn := true
  inputs := []
  replies := []

end Sys2Proof.Machine
end

