-- ==== Sys2Proof/Machine/Field.lean ====
section
/-! DEFINITION. Arithmetic on field values, exact integer arithmetic reduced modulo p at the end (rules R3, R202). -/

namespace Sys2Proof.Machine

open Sys2Proof.Config

/-- `v mod p` as a field value (rule R12). -/
def fpOfNat (v : Nat) : Fp := ⟨v % P, Nat.mod_lt v P_pos⟩

/-- `v mod p` for an integer of either sign: the non-negative residue (rules R9, R193). -/
def fpOfInt (v : Int) : Fp := fpOfNat (v % (P : Int)).toNat

/-- The source's `zero()` (rule R161). -/
def fpZero : Fp := fpOfNat 0

/-- The source's `one()` (rule R162). -/
def fpOne : Fp := fpOfNat 1

/-- `(a + b) mod p` (rule R191). -/
def fpAdd (a b : Fp) : Fp := fpOfNat (a.val + b.val)

/-- `(a − b) mod p` (rule R193). -/
def fpSub (a b : Fp) : Fp := fpOfInt (a.val - b.val)

/-- `(a · b) mod p` (rule R195). -/
def fpMul (a b : Fp) : Fp := fpOfNat (a.val * b.val)

/-- `(a · a) mod p` (rule R198). -/
def fpSqr (a : Fp) : Fp := fpOfNat (a.val * a.val)

/-- `b^e mod m` for `e < 2^bits`, by squaring; `fuel` counts the bits of `e` still to look at. -/
def powMod (m : Nat) : Nat → Nat → Nat → Nat
  | 0, _, _ => 1 % m
  | bits + 1, b, e =>
    if e % 2 = 1 then b * powMod m bits (b * b % m) (e / 2) % m else powMod m bits (b * b % m) (e / 2)

/-- `a^(p−2) mod p` (rule R200); zero gives zero. The power is computed by squaring (DEDUCED, log entry 12); rule R201's
addition chain is `invertChain` in Machine/Limbs.lean. -/
def fpInv (a : Fp) : Fp := fpOfNat (powMod P 255 a.val (P - 2))

end Sys2Proof.Machine
end

