-- ==== Sys2Proof/Machine/Flags.lean ====
section
/-! DEFINITION. The status word, the derived registers and the interrupt line, each a function of the state
(rules R48–R52, R55, R56, R87, R272, R283). -/

namespace Sys2Proof.Machine

open Sys2Proof.Config

/-- The code of an error in ERRCODE (rule R272). -/
def ErrCode.code : ErrCode → BitVec 4
  | .opcode => 1
  | .rsvd => 2
  | .depth => 3
  | .busy => 4
  | .access => 5

/-- What STATUS reads, `{24'b0, ERRCODE, 1'b0, ERR, DONE, BUSY}` (rules R49, R87). -/
def statusWord (s : State) : Word :=
  0#24 ++ s.errcode ++ 0#1 ++ BitVec.ofBool s.err ++ BitVec.ofBool s.done ++ BitVec.ofBool s.busy

/-- What CTRL reads, `{30'b0, 1'b0, IE}`: SRST and the reserved bits read 0 (rules R48, R87). -/
def ctrlWord (s : State) : Word := 0#30 ++ 0#1 ++ BitVec.ofBool s.ie

/-- What FDEPTH reads: `FDEPTH[2i+1 : 2i] = depth(F[i])`, as the number with base-4 digits
`depth(F[0]), depth(F[1]), …` (rule R51). -/
def fdepthWord (s : State) : Word :=
  BitVec.ofNat 32 (s.f.toList.foldr (fun r rest => r.depth.val + 4 * rest) 0)

/-- The interrupt output, `CTRL.IE ∧ (STATUS.DONE ∨ STATUS.ERR)` (rules R52, R283). -/
def irq (s : State) : Bool := s.ie && (s.done || s.err)

end Sys2Proof.Machine
end

