-- ==== Sys2Proof/Machine/Operands.lean ====
section
/-! DEFINITION. The operand forms: field registers, the DATA buffer as bytes and as an integer, the 32-bit slices of
H, W and MLEN (rules R12, R88–R90, R132, R133). -/

namespace Sys2Proof.Machine

open Sys2Proof.Config

/-- `F[i]` and `depth(F[i])` (rule R12). No register is hardwired (rule R35). -/
def readF (s : State) (i : Reg) : FReg := s.f[i.val]

/-- `F[i] <- r` (rule R12). -/
def writeF (i : Reg) (r : FReg) (s : State) : State := { s with f := s.f.set i.val r }

/-- `DB(j) = DATA[j div 4][8·(j mod 4)+7 : 8·(j mod 4)]` (rules R12, R88). -/
def dataByte (data : Vector Word 8) (j : Fin 32) : Byte :=
  (data[j.val / 4]'(by omega)).extractLsb' (8 * (j.val % 4)) 8

/-- `LE(b)` of rule R11: the first byte is the least significant. -/
def leValue : List Byte → Nat
  | [] => 0
  | b :: bs => b.toNat + 2 ^ 8 * leValue bs

/-- `BE(b)` of rule R11: the last byte is the least significant. -/
def beValue (bs : List Byte) : Nat := leValue bs.reverse

/-- `LEbytes_n(v)` of rule R11. -/
def leBytes : Nat → Nat → List Byte
  | 0, _ => []
  | n + 1, v => BitVec.ofNat 8 v :: leBytes n (v / 2 ^ 8)

/-- `BEbytes_n(v)` of rule R11. -/
def beBytes (n v : Nat) : List Byte := (leBytes n v).reverse

/-- The 32-byte string `DB(0..31)` (rule R88). -/
def dataBytes (data : Vector Word 8) : List Byte := (List.finRange 32).map (dataByte data)

/-- The integer the DATA buffer denotes, `LE(DB(0..31))` (rule R88). -/
def dataValue (data : Vector Word 8) : Nat := leValue (dataBytes data)

/-- The DATA words of an integer below 2^256: `DATA[k] = c[32k+31 : 32k]` (rule R165). -/
def dataOf (c : Nat) : Vector Word 8 := Vector.ofFn fun k => BitVec.ofNat 32 (c / 2 ^ (32 * k.val))

/-- `x[31:0]` (rule R90). -/
def loHalf (x : Lane) : Word := x.extractLsb' 0 32

/-- `x[63:32]` (rule R90). -/
def hiHalf (x : Lane) : Word := x.extractLsb' 32 32

/-- `x[31:0] <- v`, the other half unchanged (rule R90). -/
def setLo (x : Lane) (v : Word) : Lane := hiHalf x ++ v

/-- `x[63:32] <- v`, the other half unchanged (rule R90). -/
def setHi (x : Lane) (v : Word) : Lane := v ++ loHalf x

/-- `MLEN[32m+31 : 32m]` (rule R90). -/
def mlenWord (x : Count) (m : Fin 4) : Word := x.extractLsb' (32 * m.val) 32

/-- `MLEN[32m+31 : 32m] <- v`, the other three words unchanged (rule R90). -/
def setMlenWord (x : Count) (m : Fin 4) (v : Word) : Count :=
  (x &&& ~~~((0xFFFFFFFF : Count) <<< (32 * m.val))) ||| (v.zeroExtend 128 <<< (32 * m.val))

/-- The tag of a depth, `none` where it exceeds `D_MAX` (rules R40, R190). -/
def depthTag (d : Nat) : Option Depth := if h : d < dMax + 1 then some ⟨d, h⟩ else none

/-- `max(da, db) + 1`, the depth of a sum or difference (rules R40, R190). -/
def sumDepth (a b : FReg) : Nat := max a.depth.val b.depth.val + 1

end Sys2Proof.Machine
end

