-- ==== Sys2Proof/Machine/Ops.lean ====
section
/-! DEFINITION. The operations the commands and the window share: accepting a command and completing it, recording an
error and rejecting a command (this unit's trap analogue, rules R284, R285), acknowledging, and reset. -/

namespace Sys2Proof.Machine

/-- `record_error(code)`: only the first error since ERR was last clear is kept (rule R279). -/
def recordError (e : ErrCode) (s : State) : State :=
  if s.err then s else { s with err := true, errcode := e.code }

/-- The end of every completion: BUSY <- 0, DONE <- 1 (rule R271). PEND keeps its value (93, U14). -/
def complete (s : State) : State := { s with busy := false, done := true }

/-- The completion of a rejected command, `raise Error(code)` (rules R12, R276): this unit's exception entry
(rule R284). It writes STATUS and nothing else. -/
def reject (e : ErrCode) (s : State) : State := complete (recordError e s)

/-- A write of `v` to STATUS: bit 1 clears DONE, bit 2 clears ERR and ERRCODE; the return from an error
(rules R96, R285). -/
def acknowledge (v : Word) (s : State) : State :=
  { s with
    done := s.done && !v.getLsbD 1
    err := s.err && !v.getLsbD 2
    errcode := if v.getLsbD 2 then 0 else s.errcode }

/-- The acceptance of command word `v` (rule R93): it validates nothing, and ERR and ERRCODE stay. -/
def accept (v : Word) (s : State) : State :=
  { s with pend := v, lastcmd := v, done := false, busy := true }

/-- The word the engine's completion step reads: PEND, while BUSY is set and the unit is out of reset
(rules R271, R310). -/
def pendingCommand (s : State) : Option Word := if s.rstn && s.busy then some s.pend else none

/-- Reset of every piece of state the unit has (rules R59, R311); a command in progress is aborted. The level of
`rst_n`, the events still to come and the values already read are not the unit's. -/
def resetUnit (s : State) : State :=
  { State.reset with rstn := s.rstn, inputs := s.inputs, replies := s.replies }

/-- `rst_n` driven low: the reset, held (rule R310). -/
def holdReset (s : State) : State := { resetUnit s with rstn := false }

/-- `rst_n` driven high: the unit leaves reset as it stands (rules R310, R312). -/
def releaseReset (s : State) : State := { s with rstn := true }

/-- A value returned to the bus master (rule R81). -/
def reply (v : Word) (s : State) : State := { s with replies := v :: s.replies }

/-- The rest of the events after the next one (DESIGN CHOICE, log entry 1). -/
def setInputs (rest : List Input) (s : State) : State := { s with inputs := rest }

/-- The command word `v` accepted by a unit that is out of reset, with the engine's turn next: the command the very
next step completes (DESIGN CHOICE, log entry 7). -/
def loadCommand (v : Word) (s : State) : State :=
  accept v { s with rstn := true, inputs := .engine :: s.inputs }

end Sys2Proof.Machine
end

