-- ==== Sys2Proof/Machine/FieldArith.lean ====
section
/-! DEFINITION. FADD, FSUB, FMUL, FSQR and FINV (41_field_arith.md). Each meaning is the whole completion step of its
command (rule R271), the rejection with E_DEPTH included. -/

namespace Sys2Proof.Machine

/-- FADD and FSUB share the depth check (rule R190): a sum of depth above `D_MAX` is rejected with E_DEPTH
(rules R275, R276), otherwise `F[rd] <- (op a b, max(da, db) + 1)`. -/
def addSub (op : Fp → Fp → Fp) (rd rs1 rs2 : Reg) (s : State) : State :=
  let a := readF s rs1
  let b := readF s rs2
  match depthTag (sumDepth a b) with
  | some d => complete (writeF rd ⟨op a.value b.value, d⟩ s)
  | none => reject .depth s

/-- FADD rd, rs1, rs2 (rule R191). -/
def execFadd (rd rs1 rs2 : Reg) (s : State) : Host.Outcome State Fault Refusal :=
  .next (addSub fpAdd rd rs1 rs2 s)

/-- FSUB rd, rs1, rs2: `F[rs1] − F[rs2]` (rule R193). -/
def execFsub (rd rs1 rs2 : Reg) (s : State) : Host.Outcome State Fault Refusal :=
  .next (addSub fpSub rd rs1 rs2 s)

/-- FMUL rd, rs1, rs2 (rule R195): operands of either depth, a result of depth 0. -/
def execFmul (rd rs1 rs2 : Reg) (s : State) : Host.Outcome State Fault Refusal :=
  .next (complete (writeF rd ⟨fpMul (readF s rs1).value (readF s rs2).value, 0⟩ s))

/-- FSQR rd, rs1 (rule R198). -/
def execFsqr (rd rs1 : Reg) (s : State) : Host.Outcome State Fault Refusal :=
  .next (complete (writeF rd ⟨fpSqr (readF s rs1).value, 0⟩ s))

/-- FINV rd, rs1 (rule R200): the inverse, and 0 for 0. -/
def execFinv (rd rs1 : Reg) (s : State) : Host.Outcome State Fault Refusal :=
  .next (complete (writeF rd ⟨fpInv (readF s rs1).value, 0⟩ s))

end Sys2Proof.Machine
end

