-- ==== Sys2Proof/Machine/FieldIo.lean ====
section
/-! DEFINITION. NOP, FZERO, FONE, FLOAD and FSTORE (40_field_const_io.md). Each meaning is the whole completion step of
its command (rule R271): the rule's writes, then BUSY and DONE, in one step. -/

namespace Sys2Proof.Machine

/-- NOP (rule R160). -/
def execNop (s : State) : Host.Outcome State Fault Refusal := .next (complete s)

/-- FZERO rd (rule R161). -/
def execFzero (rd : Reg) (s : State) : Host.Outcome State Fault Refusal :=
  .next (complete (writeF rd ⟨fpZero, 0⟩ s))

/-- FONE rd (rule R162). -/
def execFone (rd : Reg) (s : State) : Host.Outcome State Fault Refusal :=
  .next (complete (writeF rd ⟨fpOne, 0⟩ s))

/-- FLOAD rd (rule R163): bit 255 of the buffer is ignored and the rest reduces modulo p. -/
def execFload (rd : Reg) (s : State) : Host.Outcome State Fault Refusal :=
  .next (complete (writeF rd ⟨fpOfNat (dataValue s.data % 2 ^ 255), 0⟩ s))

/-- FSTORE rs1 (rule R165): the canonical encoding into all of DATA. -/
def execFstore (rs1 : Reg) (s : State) : Host.Outcome State Fault Refusal :=
  .next (complete { s with data := dataOf (readF s rs1).value.val })

end Sys2Proof.Machine
end

