-- ==== Sys2Proof/Machine/Sha512.lean ====
section
/-! DEFINITION. The SHA-512 compression engine: SINIT and SCOMP (42_sha512.md). Each meaning is the whole completion
step of its command (rule R271). The functions and constants of rules R232 to R239 are marked by the spec itself as
general knowledge, and the model takes them from the spec (PRESUMED, log entry 13). -/

namespace Sys2Proof.Machine

/-- Rule R232. -/
def ch (x y z : Lane) : Lane := (x &&& y) ^^^ (~~~x &&& z)

/-- Rule R232. -/
def maj (x y z : Lane) : Lane := (x &&& y) ^^^ (x &&& z) ^^^ (y &&& z)

/-- `Σ0` of rule R233. -/
def bigSigma0 (x : Lane) : Lane := x.rotateRight 28 ^^^ x.rotateRight 34 ^^^ x.rotateRight 39

/-- `Σ1` of rule R233. -/
def bigSigma1 (x : Lane) : Lane := x.rotateRight 14 ^^^ x.rotateRight 18 ^^^ x.rotateRight 41

/-- `σ0` of rule R234. -/
def smallSigma0 (x : Lane) : Lane := x.rotateRight 1 ^^^ x.rotateRight 8 ^^^ x >>> 7

/-- `σ1` of rule R234. -/
def smallSigma1 (x : Lane) : Lane := x.rotateRight 19 ^^^ x.rotateRight 61 ^^^ x >>> 6

/-- `K[0..19]` (rule R235). -/
def kOf0To19 : List Lane :=
  [0x428A2F98D728AE22#64, 0x7137449123EF65CD#64,
   0xB5C0FBCFEC4D3B2F#64, 0xE9B5DBA58189DBBC#64,
   0x3956C25BF348B538#64, 0x59F111F1B605D019#64,
   0x923F82A4AF194F9B#64, 0xAB1C5ED5DA6D8118#64,
   0xD807AA98A3030242#64, 0x12835B0145706FBE#64,
   0x243185BE4EE4B28C#64, 0x550C7DC3D5FFB4E2#64,
   0x72BE5D74F27B896F#64, 0x80DEB1FE3B1696B1#64,
   0x9BDC06A725C71235#64, 0xC19BF174CF692694#64,
   0xE49B69C19EF14AD2#64, 0xEFBE4786384F25E3#64,
   0x0FC19DC68B8CD5B5#64, 0x240CA1CC77AC9C65#64]

/-- `K[20..39]` (rule R235). -/
def kOf20To39 : List Lane :=
  [0x2DE92C6F592B0275#64, 0x4A7484AA6EA6E483#64,
   0x5CB0A9DCBD41FBD4#64, 0x76F988DA831153B5#64,
   0x983E5152EE66DFAB#64, 0xA831C66D2DB43210#64,
   0xB00327C898FB213F#64, 0xBF597FC7BEEF0EE4#64,
   0xC6E00BF33DA88FC2#64, 0xD5A79147930AA725#64,
   0x06CA6351E003826F#64, 0x142929670A0E6E70#64,
   0x27B70A8546D22FFC#64, 0x2E1B21385C26C926#64,
   0x4D2C6DFC5AC42AED#64, 0x53380D139D95B3DF#64,
   0x650A73548BAF63DE#64, 0x766A0ABB3C77B2A8#64,
   0x81C2C92E47EDAEE6#64, 0x92722C851482353B#64]

/-- `K[40..59]` (rule R235). -/
def kOf40To59 : List Lane :=
  [0xA2BFE8A14CF10364#64, 0xA81A664BBC423001#64,
   0xC24B8B70D0F89791#64, 0xC76C51A30654BE30#64,
   0xD192E819D6EF5218#64, 0xD69906245565A910#64,
   0xF40E35855771202A#64, 0x106AA07032BBD1B8#64,
   0x19A4C116B8D2D0C8#64, 0x1E376C085141AB53#64,
   0x2748774CDF8EEB99#64, 0x34B0BCB5E19B48A8#64,
   0x391C0CB3C5C95A63#64, 0x4ED8AA4AE3418ACB#64,
   0x5B9CCA4F7763E373#64, 0x682E6FF3D6B2B8A3#64,
   0x748F82EE5DEFB2FC#64, 0x78A5636F43172F60#64,
   0x84C87814A1F0AB72#64, 0x8CC702081A6439EC#64]

/-- `K[60..79]` (rule R235). -/
def kOf60To79 : List Lane :=
  [0x90BEFFFA23631E28#64, 0xA4506CEBDE82BDE9#64,
   0xBEF9A3F7B2C67915#64, 0xC67178F2E372532B#64,
   0xCA273ECEEA26619C#64, 0xD186B8C721C0C207#64,
   0xEADA7DD6CDE0EB1E#64, 0xF57D4F7FEE6ED178#64,
   0x06F067AA72176FBA#64, 0x0A637DC5A2C898A6#64,
   0x113F9804BEF90DAE#64, 0x1B710B35131C471B#64,
   0x28DB77F523047D84#64, 0x32CAAB7B40C72493#64,
   0x3C9EBE0A15C9BEBC#64, 0x431D67C49C100D4C#64,
   0x4CC5D4BECB3E42B6#64, 0x597F299CFC657E2A#64,
   0x5FCB6FAB3AD6FAEC#64, 0x6C44198C4A475817#64]

/-- The round constants `K[0..79]` (rule R235). -/
def roundConstants : List Lane := kOf0To19 ++ kOf20To39 ++ kOf40To59 ++ kOf60To79

/-- The initial chaining value (rule R236). -/
def initialChaining : Vector Lane 8 :=
  #v[0x6A09E667F3BCC908#64, 0xBB67AE8584CAA73B#64, 0x3C6EF372FE94F82B#64, 0xA54FF53A5F1D36F1#64,
    0x510E527FADE682D1#64, 0x9B05688C2B3E6C1F#64, 0x1F83D9ABFB41BD6B#64, 0x5BE0CD19137E2179#64]

/-- One more word of the message schedule: `Ws[t]` from `Ws[t−2]`, `Ws[t−7]`, `Ws[t−15]` and `Ws[t−16]`, `t` being the
number of words so far (rule R238). -/
def scheduleNext (ws : List Lane) : Lane :=
  let back (n : Nat) : Lane := ws.getD (ws.length - n) 0
  smallSigma1 (back 2) + back 7 + smallSigma0 (back 15) + back 16

/-- `n` more words of the schedule. -/
def scheduleExtend : Nat → List Lane → List Lane
  | 0, ws => ws
  | n + 1, ws => scheduleExtend n (ws ++ [scheduleNext ws])

/-- The message schedule `Ws[0..79]` of a block (rule R238). -/
def messageSchedule (block : Vector Lane 16) : List Lane := scheduleExtend 64 block.toList

/-- The eight working variables of a compression (rule R239). -/
structure Working where
  a : Lane
  b : Lane
  c : Lane
  d : Lane
  e : Lane
  f : Lane
  g : Lane
  h : Lane
  deriving DecidableEq, Repr

/-- One round with round constant `k` and schedule word `w` (rule R239). -/
def shaRound (v : Working) (k w : Lane) : Working :=
  let t1 := v.h + bigSigma1 v.e + ch v.e v.f v.g + k + w
  let t2 := bigSigma0 v.a + maj v.a v.b v.c
  { a := t1 + t2, b := v.a, c := v.b, d := v.c, e := v.d + t1, f := v.e, g := v.f, h := v.g }

/-- The rounds over the constants and the schedule, in order (rule R239). -/
def shaRounds : List Lane → List Lane → Working → Working
  | k :: ks, w :: ws, v => shaRounds ks ws (shaRound v k w)
  | _, _, v => v

/-- The working variables a chaining value starts from (rule R239). -/
def workingOf (h : Vector Lane 8) : Working := ⟨h[0], h[1], h[2], h[3], h[4], h[5], h[6], h[7]⟩

/-- The compression function: eighty rounds, then the chaining value added word by word (rules R239, R240). -/
def compress (h : Vector Lane 8) (block : Vector Lane 16) : Vector Lane 8 :=
  let v := shaRounds roundConstants (messageSchedule block) (workingOf h)
  #v[h[0] + v.a, h[1] + v.b, h[2] + v.c, h[3] + v.d, h[4] + v.e, h[5] + v.f, h[6] + v.g, h[7] + v.h]

/-- SINIT (rule R237). -/
def execSinit (s : State) : Host.Outcome State Fault Refusal :=
  .next (complete { s with h := initialChaining, mlen := 0 })

/-- SCOMP (rules R240, R241): the block in W into H, 1024 bits more in MLEN; W stays. -/
def execScomp (s : State) : Host.Outcome State Fault Refusal :=
  .next (complete { s with h := compress s.h s.w, mlen := s.mlen + 1024 })

end Sys2Proof.Machine
end

