-- ==== Sys2Proof/Machine/Dispatch.lean ====
section
/-! DEFINITION. The meaning of every command, one arm per constructor: the completion step of that command. -/

namespace Sys2Proof.Machine

def exec (i : Instr) (s : State) : Host.Outcome State Fault Refusal :=
  match i with
  | .nop => Sys2Proof.Machine.execNop s
  | .fzero rd => Sys2Proof.Machine.execFzero rd s
  | .fone rd => Sys2Proof.Machine.execFone rd s
  | .fload rd => Sys2Proof.Machine.execFload rd s
  | .fstore rs1 => Sys2Proof.Machine.execFstore rs1 s
  | .fadd rd rs1 rs2 => Sys2Proof.Machine.execFadd rd rs1 rs2 s
  | .fsub rd rs1 rs2 => Sys2Proof.Machine.execFsub rd rs1 rs2 s
  | .fmul rd rs1 rs2 => Sys2Proof.Machine.execFmul rd rs1 rs2 s
  | .fsqr rd rs1 => Sys2Proof.Machine.execFsqr rd rs1 s
  | .finv rd rs1 => Sys2Proof.Machine.execFinv rd rs1 s
  | .sinit => Sys2Proof.Machine.execSinit s
  | .scomp => Sys2Proof.Machine.execScomp s

end Sys2Proof.Machine
end

