-- ==== Sys2Proof/Machine/Engine.lean ====
section
/-! DEFINITION. The engine agent's only step, the completion of the pending command (rule R271). -/

namespace Sys2Proof.Machine

/-- The error an illegal word is rejected with (rules R136, R273, R274). -/
def illegalCode : DecodeError → ErrCode
  | .opcode => .opcode
  | .rsvd => .rsvd

/-- `Complete()` for command word `v` (rule R271): classify it, then reject it or run its command's rule. -/
def completeWord (v : Word) (s : State) : Host.Outcome State Fault Refusal :=
  match decode v with
  | .error e => .next (reject (illegalCode e) s)
  | .ok i => exec i s

/-- The engine's turn: enabled exactly when a command is pending; otherwise the unit does nothing
(rules R271, R293). -/
def engineTurn (s : State) : Host.Outcome State Fault Refusal :=
  match pendingCommand s with
  | some v => completeWord v s
  | none => .next s

end Sys2Proof.Machine
end

