-- ==== Sys2Proof/Machine/Window.lean ====
section
/-! DEFINITION. The register window and the host's bus transactions (20_memory.md): the register map, `MemRead`,
`MemWrite`, and what a transaction and the reset input do to the unit. -/

namespace Sys2Proof.Machine

/-- The register at a word-aligned offset (rules R84, R86). -/
def regAt (off : Offset) : WinReg :=
  let n := off.toNat
  if n < 0x020 then
    if n = 0x000 then .ctrl
    else if n = 0x004 then .status
    else if n = 0x008 then .cmd
    else if n = 0x00C then .id
    else if n = 0x010 then .fdepth
    else .reserved
  else if n < 0x040 then .data (Fin.ofNat 8 ((n - 0x020) / 4))
  else if n < 0x080 then
    if n % 8 = 0 then .hLo (Fin.ofNat 8 ((n - 0x040) / 8)) else .hHi (Fin.ofNat 8 ((n - 0x040) / 8))
  else if n < 0x100 then
    if n % 8 = 0 then .wLo (Fin.ofNat 16 ((n - 0x080) / 8)) else .wHi (Fin.ofNat 16 ((n - 0x080) / 8))
  else if n < 0x110 then .mlen (Fin.ofNat 4 ((n - 0x100) / 4))
  else .reserved

/-- A transaction is well-formed exactly when it is four bytes wide at a multiple of four (rule R82). -/
def wellFormedAccess (off : Offset) (size : Size) : Bool :=
  match size with
  | .four => off.toNat % 4 == 0
  | .one => false
  | .two => false

/-- The read column of rule R87. -/
def readReg (s : State) (r : WinReg) : Word :=
  match r with
  | .ctrl => ctrlWord s
  | .status => statusWord s
  | .cmd => s.lastcmd
  | .id => Config.idValue
  | .fdepth => fdepthWord s
  | .data k => s.data[k.val]
  | .hLo i => loHalf s.h[i.val]
  | .hHi i => hiHalf s.h[i.val]
  | .wLo t => loHalf s.w[t.val]
  | .wHi t => hiHalf s.w[t.val]
  | .mlen m => mlenWord s.mlen m
  | .reserved => 0

/-- A write of `v` to CTRL: SRST resets the unit and wins over IE; otherwise IE takes bit 0 (rules R97, R311). -/
def writeCtrl (v : Word) (s : State) : State :=
  if v.getLsbD 1 then resetUnit s else { s with ie := v.getLsbD 0 }

/-- A write to an operand register: `t` is the state with the slice written; while BUSY the write is dropped and
E_BUSY recorded (rules R100, R277). -/
def writeOperand (s t : State) : State := if s.busy then recordError .busy s else t

/-- The write columns of rule R87. -/
def writeReg (r : WinReg) (v : Word) (s : State) : State :=
  match r with
  | .ctrl => writeCtrl v s
  | .status => acknowledge v s
  | .cmd => if s.busy then recordError .busy s else accept v s
  | .id => s
  | .fdepth => s
  | .data k => writeOperand s { s with data := s.data.set k.val v }
  | .hLo i => writeOperand s { s with h := s.h.set i.val (setLo s.h[i.val] v) }
  | .hHi i => writeOperand s { s with h := s.h.set i.val (setHi s.h[i.val] v) }
  | .wLo t => writeOperand s { s with w := s.w.set t.val (setLo s.w[t.val] v) }
  | .wHi t => writeOperand s { s with w := s.w.set t.val (setHi s.w[t.val] v) }
  | .mlen m => writeOperand s { s with mlen := setMlenWord s.mlen m v }
  | .reserved => s

/-- `MemWrite(off, size, v)` (rules R83, R99). -/
def memWrite (off : Offset) (size : Size) (v : Word) (s : State) : State :=
  if wellFormedAccess off size then writeReg (regAt off) v s else recordError .access s

/-- What `MemRead(off, size)` does to the unit: nothing, but for the E_ACCESS of an access that is not well-formed
(rules R83, R104). -/
def memReadState (off : Offset) (size : Size) (s : State) : State :=
  if wellFormedAccess off size then s else recordError .access s

/-- The value `MemRead(off, size)` returns (rules R83, R99). -/
def memReadValue (off : Offset) (size : Size) (s : State) : Word :=
  if wellFormedAccess off size then readReg s (regAt off) else 0

/-- A host read; while `rst_n` is low it returns 0 and does nothing (rule R310). -/
def hostRead (off : Offset) (size : Size) (s : State) : State :=
  if s.rstn then reply (memReadValue off size s) (memReadState off size s) else reply 0 s

/-- A host write; while `rst_n` is low it does nothing (rule R310). -/
def hostWrite (off : Offset) (size : Size) (v : Word) (s : State) : State :=
  if s.rstn then memWrite off size v s else s

end Sys2Proof.Machine
end

