-- ==== Sys2Proof/Machine/Step.lean ====
section
/-! DEFINITION. One step of the unit: the next event in the order of arrival, or, when none is left, the engine's turn
(rules R30, R105, R281, R322; DESIGN CHOICE, log entry 1; DEDUCED, log entry 2). -/

namespace Sys2Proof.Machine

def step (s : State) : Host.Outcome State Fault Refusal :=
  match s.inputs with
  | [] => engineTurn s
  | .engine :: rest => engineTurn (setInputs rest s)
  | .read off size :: rest => .next (hostRead off size (setInputs rest s))
  | .write off size v :: rest => .next (hostWrite off size v (setInputs rest s))
  | .resetLow :: rest => .next (holdReset (setInputs rest s))
  | .resetHigh :: rest => .next (releaseReset (setInputs rest s))

/-- The state whose very next step completes the command word `w` of `nbits` bits (DESIGN CHOICE, log entries 7 and 15). -/
def State.withFetchWord (s : State) (nbits w : Nat) : State :=
  loadCommand (BitVec.ofNat 32 (w % 2 ^ nbits)) s

end Sys2Proof.Machine
end

