-- ==== Sys2Proof/Machine/Assembler.lean ====
section
/-! DEFINITION. The assembler syntax of rule R142: one line of text to a command, and back. -/

namespace Sys2Proof.Machine

/-- `f0`–`f15` (rule R142). -/
def regName (r : Reg) : List Char := 'f' :: Nat.toDigits 10 r.val

/-- A register name; any other text is rejected (rule R142). -/
def regOfName (t : List Char) : Option Reg := (List.finRange Config.nFR).find? fun r => regName r == t

/-- A mnemonic with its operands, destination first; any other operand count is rejected (rule R142). -/
def instrOfTokens (mn : List Char) : List Reg → Option Instr
  | [] =>
    if mn = ['n', 'o', 'p'] then some .nop
    else if mn = ['s', 'i', 'n', 'i', 't'] then some .sinit
    else if mn = ['s', 'c', 'o', 'm', 'p'] then some .scomp
    else none
  | [a] =>
    if mn = ['f', 'z', 'e', 'r', 'o'] then some (.fzero a)
    else if mn = ['f', 'o', 'n', 'e'] then some (.fone a)
    else if mn = ['f', 'l', 'o', 'a', 'd'] then some (.fload a)
    else if mn = ['f', 's', 't', 'o', 'r', 'e'] then some (.fstore a)
    else none
  | [a, b] =>
    if mn = ['f', 's', 'q', 'r'] then some (.fsqr a b)
    else if mn = ['f', 'i', 'n', 'v'] then some (.finv a b)
    else none
  | [a, b, c] =>
    if mn = ['f', 'a', 'd', 'd'] then some (.fadd a b c)
    else if mn = ['f', 's', 'u', 'b'] then some (.fsub a b c)
    else if mn = ['f', 'm', 'u', 'l'] then some (.fmul a b c)
    else none
  | _ => none

/-- The lower-case mnemonic of a command (rule R142). -/
def mnemonic : Instr → List Char
  | .nop => ['n', 'o', 'p']
  | .fzero _ => ['f', 'z', 'e', 'r', 'o']
  | .fone _ => ['f', 'o', 'n', 'e']
  | .fload _ => ['f', 'l', 'o', 'a', 'd']
  | .fstore _ => ['f', 's', 't', 'o', 'r', 'e']
  | .fadd _ _ _ => ['f', 'a', 'd', 'd']
  | .fsub _ _ _ => ['f', 's', 'u', 'b']
  | .fmul _ _ _ => ['f', 'm', 'u', 'l']
  | .fsqr _ _ => ['f', 's', 'q', 'r']
  | .finv _ _ => ['f', 'i', 'n', 'v']
  | .sinit => ['s', 'i', 'n', 'i', 't']
  | .scomp => ['s', 'c', 'o', 'm', 'p']

/-- The pieces of a text between the characters `c`. -/
def splitAtChar (c : Char) : List Char → List (List Char)
  | [] => [[]]
  | x :: xs =>
    match splitAtChar c xs with
    | [] => [[x]]
    | p :: ps => if x = c then [] :: p :: ps else (x :: p) :: ps

/-- A text without its leading and trailing blanks. -/
def trimBlanks (t : List Char) : List Char :=
  ((t.dropWhile (· = ' ')).reverse.dropWhile (· = ' ')).reverse

/-- One assembly line: a comment after ';' is dropped, the mnemonic ends at the first blank, and the operands are
separated by commas (rule R142; DESIGN CHOICE, log entry 11). -/
def assemble (line : List Char) : Option Instr :=
  let code := trimBlanks (line.takeWhile (· ≠ ';'))
  let mn := code.takeWhile (· ≠ ' ')
  let rest := trimBlanks (code.dropWhile (· ≠ ' '))
  if rest = [] then instrOfTokens mn []
  else ((splitAtChar ',' rest).mapM fun t => regOfName (trimBlanks t)).bind (instrOfTokens mn)

/-- The line rule R142 writes for a command. -/
def disassemble (i : Instr) : List Char :=
  mnemonic i ++ (if i.operands = [] then [] else ' ' :: [',', ' '].intercalate ((i.operands).map regName))

end Sys2Proof.Machine
end

