-- ==== Sys2Proof/Machine/HostProgram.lean ====
section
/-! DEFINITION. The host's side of the port: the pseudo-instructions of rule R143 as the bus transactions they expand
to, and the host's byte conventions for SHA-512 (rules R88, R91, R92, R242, R243). -/

namespace Sys2Proof.Machine

/-- The pseudo-instructions of rule R143. A `wait` is given how many polls find the command still running before the
engine completes it, which the spec leaves open (rule R322; DESIGN CHOICE, log entry 10). -/
inductive Pseudo where
  | wr (off : Offset) (v : Word)
  | rd (off : Offset)
  | cmd (x : Instr)
  | wait (polls : Nat)
  | run (x : Instr) (polls : Nat)
  | ldata (b : List Byte)
  | sdata
  | ldblk (m : List Byte)
  | rdH
  | ack
  deriving DecidableEq, Repr

/-- `wr OFF, VAL` (rule R143). -/
def wrWord (off v : Nat) : Input := .write (BitVec.ofNat 12 off) .four (BitVec.ofNat 32 v)

/-- `rd OFF` (rule R143). -/
def rdWord (off : Nat) : Input := .read (BitVec.ofNat 12 off) .four

/-- The bytes `b[i .. i+n−1]`. -/
def bytesAt (b : List Byte) (i n : Nat) : List Byte := (b.drop i).take n

/-- `cmd X` (rule R143). -/
def cmdInputs (x : Instr) : List Input := [.write 0x008 .four (encode x)]

/-- `wait`, for one number of polls before the completion: the poll after it finds DONE (rule R143). -/
def waitInputs (polls : Nat) : List Input := List.replicate polls (rdWord 0x004) ++ [.engine, rdWord 0x004]

/-- The transactions a pseudo-instruction expands to (rule R143). -/
def Pseudo.expand : Pseudo → List Input
  | .wr off v => [.write off .four v]
  | .rd off => [.read off .four]
  | .cmd x => cmdInputs x
  | .wait polls => waitInputs polls
  | .run x polls => cmdInputs x ++ waitInputs polls
  | .ldata b => (List.range 8).map fun k => wrWord (0x020 + 4 * k) (leValue (bytesAt b (4 * k) 4))
  | .sdata => (List.range 8).map fun k => rdWord (0x020 + 4 * k)
  | .ldblk m => (List.range 16).flatMap fun t =>
      [wrWord (0x080 + 8 * t) (beValue (bytesAt m (8 * t + 4) 4)),
       wrWord (0x084 + 8 * t) (beValue (bytesAt m (8 * t) 4))]
  | .rdH => (List.range 8).flatMap fun i => [rdWord (0x040 + 8 * i), rdWord (0x044 + 8 * i)]
  | .ack => [wrWord 0x004 0x00000006]

/-- A host program: the transactions of its lines, in order (rule R143). -/
def expandAll (prog : List Pseudo) : List Input := prog.flatMap Pseudo.expand

/-- `W[t] = BE(M[8t .. 8t+7])` (rule R91). -/
def blockOf (m : List Byte) : Vector Lane 16 :=
  Vector.ofFn fun t => BitVec.ofNat 64 (beValue (bytesAt m (8 * t.val) 8))

/-- The 64-byte digest, the big-endian words of H in order (rule R92). -/
def digestBytes (h : Vector Lane 8) : List Byte := h.toList.flatMap fun x => beBytes 8 x.toNat

/-- The host's padding of a message of whole bytes (rule R242). -/
def padMessage (m : List Byte) : List Byte :=
  m ++ [0x80#8] ++ List.replicate ((128 - (m.length + 17) % 128) % 128) 0#8 ++ beBytes 16 (8 * m.length)

end Sys2Proof.Machine
end

