-- ==== Sys2Proof/Machine/Limbs.lean ====
section
/-! DEFINITION. The limb level: the ten-limb representation and the algorithms the spec gives for it, as an
implementation of the field operations (rules R37–R42, R164, R166, R192, R194, R196, R197, R199, R201). No meaning of
a command calls any of this, because limbs are not observable (rule R42; DEDUCED, log entry 8): that these algorithms compute
the values the commands are defined by, within the bounds of rule R41, is what the refinement statements say.
Limbs and columns are exact integers; that they fit 32 and 64 bits is stated, not assumed. -/

namespace Sys2Proof.Machine

open Sys2Proof.Config

/-- `l[0..9]` (rule R37). -/
abbrev Limbs := Vector Int nLimb

/-- `w(k) = ⌈25.5·k⌉` (rules R38, R39). -/
def limbWeight (k : Nat) : Nat := (51 * k + 1) / 2

/-- `LW(k)`: 26 for even k, 25 for odd k (rules R8, R38). -/
def limbWidth (k : Nat) : Nat := if k % 2 = 0 then 26 else 25

/-- `Σ l[i]·2^w(i)` (rule R37). -/
def limbSum (l : Limbs) : Int := ((List.finRange nLimb).map fun i => l[i.val] * 2 ^ limbWeight i.val).sum

/-- The value of a limb vector (rule R37). -/
def limbValue (l : Limbs) : Fp := fpOfInt (limbSum l)

/-- The limb bound of a depth, `B0` or `B1` (rule R41). -/
def limbBound (d : Depth) : Nat := if d = 0 then B0 else B1

/-- Every limb meets the bound of depth `d` (rule R41). -/
abbrev LimbsBounded (d : Depth) (l : Limbs) : Prop := ∀ i : Fin nLimb, l[i.val].natAbs ≤ limbBound d

/-- The limbs an implementation may hold for a field register (rules R37, R41, R42). -/
abbrev Represents (l : Limbs) (r : FReg) : Prop := limbValue l = r.value ∧ LimbsBounded r.depth l

/-- FLOAD's split, `l[i] = n[w(i)+LW(i)−1 : w(i)]` (rule R164). -/
def limbsOfNat (n : Nat) : Limbs :=
  Vector.ofFn fun i => ((n / 2 ^ limbWeight i.val % 2 ^ limbWidth i.val : Nat) : Int)

/-- FADD, limb by limb with no carrying (rule R192). -/
def limbAdd (f g : Limbs) : Limbs := Vector.ofFn fun i => f[i.val] + g[i.val]

/-- FSUB, limb by limb with no carrying (rule R194). -/
def limbSub (f g : Limbs) : Limbs := Vector.ofFn fun i => f[i.val] - g[i.val]

/-- `e(i, j)`: 2 where two odd limbs meet, else 1 (rule R196). -/
def oddPair (i j : Nat) : Int := if i % 2 = 1 ∧ j % 2 = 1 then 2 else 1

/-- Raw column `r[k]`: the sum of `e(i, j)·f[i]·g[j]` over `i + j = k` (rule R196). -/
def rawColumn (f g : Limbs) (k : Nat) : Int :=
  ((List.finRange nLimb).map fun i =>
    if h : i.val ≤ k ∧ k - i.val < nLimb then oddPair i.val (k - i.val) * f[i.val] * g[k - i.val] else 0).sum

/-- Folded column `c[k] = r[k] + 19·r[k+10]` (rule R196); `r[19]` is an empty sum. -/
def foldedColumn (f g : Limbs) (k : Nat) : Int := rawColumn f g k + 19 * rawColumn f g (k + 10)

/-- The ten folded columns of a product (rule R196, 90_conflicts.md C1). -/
def limbColumns (f g : Limbs) : Limbs := Vector.ofFn fun k => foldedColumn f g k.val

/-- One carry: the excess of limb `k` over its width into limb `k+1`, from limb 9 into limb 0 times 19
(rule R197). Division by the positive width rounds down. -/
def carryAt (l : Limbs) (k : Fin nLimb) : Limbs :=
  let cy : Int := l[k.val] / 2 ^ limbWidth k.val
  let l' : Limbs := l.set k.val (l[k.val] - cy * 2 ^ limbWidth k.val)
  if h : k.val + 1 < nLimb then l'.set (k.val + 1) (l'[k.val + 1] + cy)
  else l'.set 0 (l'[0] + 19 * cy)

/-- One sweep of carries, k = 0..9 (rule R197). -/
def carrySweep (l : Limbs) : Limbs := (List.finRange nLimb).foldl carryAt l

/-- FMUL: the folded columns, then two sweeps (rules R196, R197). -/
def limbMul (f g : Limbs) : Limbs := carrySweep (carrySweep (limbColumns f g))

/-- FSQR's symmetric raw column (rule R199). -/
def squareColumn (f : Limbs) (k : Nat) : Int :=
  ((List.finRange nLimb).map fun i =>
    if h : i.val < k - i.val ∧ k - i.val < nLimb then 2 * oddPair i.val (k - i.val) * f[i.val] * f[k - i.val] else 0).sum
  + (if h : k % 2 = 0 ∧ k / 2 < nLimb then oddPair (k / 2) (k / 2) * (f[k / 2] * f[k / 2]) else 0)

/-- The ten folded columns of a square (rules R196, R199). -/
def squareColumns (f : Limbs) : Limbs :=
  Vector.ofFn fun k => squareColumn f k.val + 19 * squareColumn f (k.val + 10)

/-- FSQR by the symmetric form (rule R199). -/
def limbSqr (f : Limbs) : Limbs := carrySweep (carrySweep (squareColumns f))

/-- FSTORE's full reduction: carry sweeps until every limb is within its nominal width, three of them being enough
(rule R166 leaves their number open: DESIGN CHOICE, log entry 9), then one conditional subtraction of p. -/
def limbFreeze (l : Limbs) : Nat :=
  let n := (limbSum (carrySweep (carrySweep (carrySweep l)))).toNat
  if P ≤ n then n - P else n

/-- FSTORE's 32 little-endian bytes (rule R166). -/
def limbToBytes (l : Limbs) : List Byte := leBytes 32 (limbFreeze l)

/-- The operand, the temporaries and the result of the inversion chain (rule R201). -/
inductive ChainReg where
  | z | t0 | t1 | t2 | t3 | out
  deriving DecidableEq, Repr

/-- One line of the chain's table: `n` successive squarings, or one multiplication (rule R201). -/
inductive ChainOp where
  | square (n : Nat) (dst src : ChainReg)
  | mult (dst x y : ChainReg)
  deriving DecidableEq, Repr

/-- What the chain's names hold while it runs, of whatever kind the elements are (rule R33). -/
structure ChainRegs (α : Type) where
  z : α
  t0 : α
  t1 : α
  t2 : α
  t3 : α
  out : α
  deriving DecidableEq, Repr

/-- Reads a name of the chain. -/
def chainGet {α : Type} (r : ChainRegs α) : ChainReg → α
  | .z => r.z
  | .t0 => r.t0
  | .t1 => r.t1
  | .t2 => r.t2
  | .t3 => r.t3
  | .out => r.out

/-- Writes a name of the chain. -/
def chainSet {α : Type} (r : ChainRegs α) (n : ChainReg) (v : α) : ChainRegs α :=
  match n with
  | .z => { r with z := v }
  | .t0 => { r with t0 := v }
  | .t1 => { r with t1 := v }
  | .t2 => { r with t2 := v }
  | .t3 => { r with t3 := v }
  | .out => { r with out := v }

/-- `S^n` of rule R201: n successive squarings. -/
def squareTimes {α : Type} (sqr : α → α) : Nat → α → α
  | 0, x => x
  | n + 1, x => squareTimes sqr n (sqr x)

/-- The addition chain of rule R201, steps 1 to 15. -/
def invertSteps : List ChainOp :=
  [.square 1 .t0 .z,
   .square 2 .t1 .t0,
   .mult .t1 .z .t1,
   .mult .t0 .t0 .t1,
   .square 1 .t2 .t0,
   .mult .t1 .t1 .t2,
   .square 5 .t2 .t1, .mult .t1 .t2 .t1,
   .square 10 .t2 .t1, .mult .t2 .t2 .t1,
   .square 20 .t3 .t2, .mult .t2 .t3 .t2,
   .square 10 .t2 .t2, .mult .t1 .t2 .t1,
   .square 50 .t2 .t1, .mult .t2 .t2 .t1,
   .square 100 .t3 .t2, .mult .t2 .t3 .t2,
   .square 50 .t2 .t2, .mult .t1 .t2 .t1,
   .square 5 .t1 .t1,
   .mult .out .t1 .t0]

/-- One line of the chain. -/
def chainStep {α : Type} (mul : α → α → α) (sqr : α → α) (r : ChainRegs α) : ChainOp → ChainRegs α
  | .square n dst src => chainSet r dst (squareTimes sqr n (chainGet r src))
  | .mult dst x y => chainSet r dst (mul (chainGet r x) (chainGet r y))

/-- The chain's result from `z`, over any multiplication and squaring (rule R201). -/
def invertChain {α : Type} (mul : α → α → α) (sqr : α → α) (z : α) : α :=
  (invertSteps.foldl (chainStep mul sqr) ⟨z, z, z, z, z, z⟩).out

/-- How many squarings a line is (rule R201, the squarings column). -/
def ChainOp.squarings : ChainOp → Nat
  | .square n _ _ => n
  | .mult _ _ _ => 0

/-- How many multiplications a line is (rule R201, the mults column). -/
def ChainOp.mults : ChainOp → Nat
  | .square _ _ _ => 0
  | .mult _ _ _ => 1

/-- FINV on limbs: the chain over rules R196, R197 and R199 (rule R201). -/
def limbInvert (z : Limbs) : Limbs := invertChain limbMul limbSqr z

end Sys2Proof.Machine
end

