-- ==== Sys2Proof/Safety.lean ====
section
/-! DEFINITION. What the statements call a good state, a safe run, and the part of the state a step leaves alone. -/

namespace Sys2Proof.Machine

/-- The invariant of the unit: `ERR = 0 ⇔ ERRCODE = 0` (rule R49) and ERRCODE is a produced code (rule R272);
PEND and LASTCMD hold the last accepted word (rules R50, R53, 93 U14); a command in progress is not done
(rules R93, R271); and while `rst_n` is low every register has its reset value (rules R310, R311). -/
abbrev UnitInv (s : State) : Prop :=
  (s.err = false ↔ s.errcode = 0) ∧ s.errcode.toNat ≤ 5 ∧ s.pend = s.lastcmd ∧
    (s.busy = true → s.done = false) ∧ (s.rstn = false → resetUnit s = s)

/-- A run of `n` steps that stops at no fault and no refusal. -/
def Safe (n : Nat) (s : State) : Prop := ∃ t, Host.Core.run Sys2Proof.core n s = .next t

/-- A state without what is outside the unit, its events and the values read: two states agree in every register,
and in the level of `rst_n`, when these are equal. -/
def unitOf (s : State) : State := { s with inputs := [], replies := [] }

/-- `t` is `s` with every register of the unit at its reset value (rule R59, entry by entry, the derived ones too). -/
abbrev AllReset (t : State) : Prop :=
  (∀ i : Reg, (readF t i).value.val = 0 ∧ (readF t i).depth = 0) ∧ (∀ k : Fin 8, t.data[k.val] = 0) ∧
    (∀ i : Fin 8, t.h[i.val] = 0) ∧ (∀ i : Fin 16, t.w[i.val] = 0) ∧ t.mlen = 0 ∧ t.ie = false ∧
    t.busy = false ∧ t.done = false ∧ t.err = false ∧ t.errcode = 0 ∧ t.lastcmd = 0 ∧ t.pend = 0 ∧
    readReg t .id = 0x25519001 ∧ fdepthWord t = 0 ∧ irq t = false

/-- `s` after the completion of a rejected command with error code `c` (rules R276, R279): STATUS and nothing else. -/
def rejectedState (c : BitVec 4) (s : State) : State :=
  { s with err := true, errcode := if s.err then s.errcode else c, busy := false, done := true }

/-- `s` after a host access that records error code `c` and does nothing else (rule R279). -/
def erredState (c : BitVec 4) (s : State) : State :=
  { s with err := true, errcode := if s.err then s.errcode else c }

/-- The completion of a command that raises no error: BUSY and DONE change (rule R271), and none of the other flags,
IE, LASTCMD, PEND, nor anything outside the unit. -/
abbrev CompletionFrame (s t : State) : Prop :=
  t.busy = false ∧ t.done = true ∧ t.err = s.err ∧ t.errcode = s.errcode ∧ t.ie = s.ie ∧ t.lastcmd = s.lastcmd ∧
    t.pend = s.pend ∧ t.rstn = s.rstn ∧ t.inputs = s.inputs ∧ t.replies = s.replies

/-- The frame of a command that writes `F[rd]`: every other field register, DATA, H, W and MLEN stay. -/
abbrev FieldFrame (rd : Reg) (s t : State) : Prop :=
  (∀ r, r ≠ rd → readF t r = readF s r) ∧ t.data = s.data ∧ t.h = s.h ∧ t.w = s.w ∧ t.mlen = s.mlen ∧
    CompletionFrame s t

/-- The window offsets a command's results can be read at, STATUS apart: FDEPTH for a command that writes a field
register, DATA for FSTORE, H and MLEN for SINIT and SCOMP, none for NOP (rule R133). -/
def resultAt (i : Instr) (off : Nat) : Bool :=
  match i with
  | .nop => false
  | .fzero _ => off == 0x010
  | .fone _ => off == 0x010
  | .fload _ => off == 0x010
  | .fstore _ => 0x020 ≤ off && off < 0x040
  | .fadd _ _ _ => off == 0x010
  | .fsub _ _ _ => off == 0x010
  | .fmul _ _ _ => off == 0x010
  | .fsqr _ _ => off == 0x010
  | .finv _ _ => off == 0x010
  | .sinit => (0x040 ≤ off && off < 0x080) || (0x100 ≤ off && off < 0x110)
  | .scomp => (0x040 ≤ off && off < 0x080) || (0x100 ≤ off && off < 0x110)

/-- The next event resets the unit: `rst_n` goes low, or, out of reset, CTRL is written with SRST (rule R310). -/
def NextResets (s : State) : Prop :=
  s.inputs.head? = some .resetLow ∨
    ∃ v : Word, s.rstn = true ∧ s.inputs.head? = some (.write 0x000 .four v) ∧ v.getLsbD 1 = true

/-- The next step is the completion of the pending command word `v` (rules R271, R322; that it is also when no event is
left is log entry 1). -/
abbrev NextCompletes (s : State) (v : Word) : Prop :=
  s.rstn = true ∧ s.busy = true ∧ s.pend = v ∧ (s.inputs = [] ∨ s.inputs.head? = some .engine)

/-- The next event is a well-formed write, to an idle unit out of reset, at an offset in `lo .. hi−1`. -/
def NextWrites (s : State) (lo hi : Nat) : Prop :=
  ∃ (off : Offset) (v : Word), s.rstn = true ∧ s.busy = false ∧ s.inputs.head? = some (.write off .four v) ∧
    off.toNat % 4 = 0 ∧ lo ≤ off.toNat ∧ off.toNat < hi

end Sys2Proof.Machine
end

