-- ==== Sys2Proof/Certificates/Slice0/Obligations.lean ====
section
/-! DEFINITION. The statements about the model, for the provers; OBLIGATIONS.json lists them. -/

open Sys2Proof Sys2Proof.Machine Sys2Proof.Config

/-! ### Encoding (30_encoding.md) -/

/-- Decoding the word of any instruction gives it back, with every operand at every value (rules R134–R136). -/
def Obligations.DecodeOfEncodeIsTheInstruction : Prop :=
  ∀ i : Instr, i.WellFormed → decode (encode i) = .ok i

/-- A word that decodes is the word of the instruction it decodes to: no two words mean one command, and no bit of a
command word is ignored (rules R134, R136, R138). -/
def Obligations.EncodeOfDecodeIsTheWord : Prop :=
  ∀ (v : Word) (i : Instr), decode v = .ok i → encode i = v

/-- The mask and match columns of rule R134, which the decoder uses, accept exactly the words whose fields pass the
checks made from its RD, RS1 and RS2 columns. -/
def Obligations.DecoderAcceptsExactlyWellFormedCommands : Prop :=
  ∀ v : Word, (∃ i, decode v = .ok i) ↔ (fieldsOf v).wellFormed = true

/-- `enc(OPC, rd, rs1, rs2) = OPC + rd·2^8 + rs1·2^12 + rs2·2^16` for every command (the formula of 30_encoding.md
section 2, which the spec marks as derived). -/
def Obligations.EncodingFormula : Prop :=
  ∀ rd rs1 rs2 : Reg,
    (encode .nop).toNat = 0x00 ∧
    (encode (.fzero rd)).toNat = 0x01 + rd.val * 2 ^ 8 ∧
    (encode (.fone rd)).toNat = 0x02 + rd.val * 2 ^ 8 ∧
    (encode (.fload rd)).toNat = 0x03 + rd.val * 2 ^ 8 ∧
    (encode (.fstore rs1)).toNat = 0x04 + rs1.val * 2 ^ 12 ∧
    (encode (.fadd rd rs1 rs2)).toNat = 0x05 + rd.val * 2 ^ 8 + rs1.val * 2 ^ 12 + rs2.val * 2 ^ 16 ∧
    (encode (.fsub rd rs1 rs2)).toNat = 0x06 + rd.val * 2 ^ 8 + rs1.val * 2 ^ 12 + rs2.val * 2 ^ 16 ∧
    (encode (.fmul rd rs1 rs2)).toNat = 0x07 + rd.val * 2 ^ 8 + rs1.val * 2 ^ 12 + rs2.val * 2 ^ 16 ∧
    (encode (.fsqr rd rs1)).toNat = 0x08 + rd.val * 2 ^ 8 + rs1.val * 2 ^ 12 ∧
    (encode (.finv rd rs1)).toNat = 0x09 + rd.val * 2 ^ 8 + rs1.val * 2 ^ 12 ∧
    (encode .sinit).toNat = 0x10 ∧
    (encode .scomp).toNat = 0x11

/-- Words the spec writes out decode to the commands it gives them (30_encoding.md section 2 and
95_test_vectors.md programs P1 to P4). -/
def Obligations.SampleWordsDecode : Prop :=
  decode 0x00001205 = .ok (.fadd 2 1 0) ∧ decode 0x00005004 = .ok (.fstore 5) ∧
    decode 0x00003409 = .ok (.finv 4 3) ∧ decode 0x00042507 = .ok (.fmul 5 2 4) ∧
    decode 0x00000011 = .ok .scomp ∧ decode 0x00100000 = .error .rsvd ∧ decode 0x00010008 = .error .rsvd ∧
    decode 0xFFFFFFFF = .error .opcode

/-- The assembly line written for any command assembles to it (the syntax of 30_encoding.md section 5). -/
def Obligations.AssembleOfDisassembleIsTheCommand : Prop :=
  ∀ i : Instr, assemble (disassemble i) = some i

/-! ### The completion step (60_exceptions.md) -/

/-- On the engine's turn the pending command word of a unit out of reset is completed: the step is `exec` of the
instruction it decodes to, or its rejection, on the state without the turn. When nothing is pending the turn does
nothing. Two clauses are the model's: that the turn also comes when no event is left (DESIGN CHOICE, log entry 1), and
that it does nothing while `rst_n` is low (DEDUCED, log entry 3). -/
def Obligations.StepRunsThePendingCommand : Prop :=
  ∀ (s r : State), (s.inputs = [] ∧ r = s ∨ ∃ rest, s.inputs = .engine :: rest ∧ r = { s with inputs := rest }) →
    (s.rstn = true → s.busy = true →
      (∀ i, decode s.pend = .ok i → step s = exec i r) ∧
      (decode s.pend = .error .opcode → step s = .next (rejectedState 1 r)) ∧
      (decode s.pend = .error .rsvd → step s = .next (rejectedState 2 r))) ∧
    ((s.rstn = false ∨ s.busy = false) → step s = .next r)

/-- A completion raises E_OPCODE for exactly the undefined OPC values, E_RSVD for exactly the words of a defined opcode
with a nonzero bit in 31:20 or in an unused field, E_DEPTH for exactly a well-formed FADD or FSUB with an operand of
depth 1, and no other error; each writes STATUS and nothing else. What is raised is read from ERRCODE, where ERR was
clear before. -/
def Obligations.RejectedCommandsWriteStatusOnly : Prop :=
  (∀ (v : Word) (s : State), v.toNat % 256 ∉ [0, 1, 2, 3, 4, 5, 6, 7, 8, 9, 16, 17] →
    completeWord v s = .next (rejectedState 1 s)) ∧
  (∀ (v : Word) (s : State) (op : Opcode), v.toNat % 256 = op.pattern.toNat → v &&& op.mask ≠ op.pattern →
    completeWord v s = .next (rejectedState 2 s)) ∧
  (∀ (s : State) (rd rs1 rs2 : Reg),
    max (readF s rs1).depth.val (readF s rs2).depth.val + 1 > dMax →
    completeWord (encode (.fadd rd rs1 rs2)) s = .next (rejectedState 3 s) ∧
    completeWord (encode (.fsub rd rs1 rs2)) s = .next (rejectedState 3 s)) ∧
  (∀ (v : Word) (s : State), s.err = false → ∃ t, completeWord v s = .next t ∧
    (t.err = true ∧ t.errcode = 1 ↔ v.toNat % 256 ∉ [0, 1, 2, 3, 4, 5, 6, 7, 8, 9, 16, 17]) ∧
    (t.err = true ∧ t.errcode = 2 ↔ ∃ op : Opcode, v.toNat % 256 = op.pattern.toNat ∧ v &&& op.mask ≠ op.pattern) ∧
    (t.err = true ∧ t.errcode = 3 ↔ ∃ rd rs1 rs2 : Reg,
      (v = encode (.fadd rd rs1 rs2) ∨ v = encode (.fsub rd rs1 rs2)) ∧
        max (readF s rs1).depth.val (readF s rs2).depth.val + 1 > dMax) ∧
    (t.err = true → t.errcode = 1 ∨ t.errcode = 2 ∨ t.errcode = 3))

/-- FADD and FSUB raise E_DEPTH exactly when an operand has depth 1, and a reserved bit in their word is reported
before it; no other command raises an error, whatever the depths of its operands. -/
def Obligations.OnlyAddAndSubRaiseDepthErrors : Prop :=
  (∀ (s : State) (rd rs1 rs2 : Reg) (i : Instr), i = .fadd rd rs1 rs2 ∨ i = .fsub rd rs1 rs2 →
    ((readF s rs1).depth = 1 ∨ (readF s rs2).depth = 1 → exec i s = .next (rejectedState 3 s)) ∧
    ((readF s rs1).depth = 0 ∧ (readF s rs2).depth = 0 →
      ∃ t, exec i s = .next t ∧ (readF t rd).depth = 1 ∧ t.err = s.err ∧ t.errcode = s.errcode)) ∧
  (∀ (v : Word) (s : State), v.toNat % 256 = 5 ∨ v.toNat % 256 = 6 → v.toNat / 2 ^ 20 ≠ 0 →
    completeWord v s = .next (rejectedState 2 s)) ∧
  (∀ (s : State) (i : Instr), (∀ rd rs1 rs2, i ≠ .fadd rd rs1 rs2 ∧ i ≠ .fsub rd rs1 rs2) →
    ∃ t, exec i s = .next t ∧ t.err = s.err ∧ t.errcode = s.errcode)

/-! ### The commands (40_field_const_io.md, 41_field_arith.md, 42_sha512.md) -/

/-- NOP completes and changes no register; its word is 0 and any other word of its opcode is E_RSVD; run from reset
through the handshake it leaves every register at its reset value but STATUS, which reads 2. -/
def Obligations.NopRule : Prop :=
  (∀ s : State, ∃ t, exec .nop s = .next t ∧ t.f = s.f ∧ t.data = s.data ∧ t.h = s.h ∧ t.w = s.w ∧
    t.mlen = s.mlen ∧ CompletionFrame s t) ∧
  decode 0x00000000 = .ok .nop ∧
  (∀ v : Word, v.toNat % 256 = 0 → v.toNat / 2 ^ 8 ≠ 0 → decode v = .error .rsvd) ∧
  (∃ t u, step { State.reset with inputs := [.write 0x008 .four 0, .engine] } = .next t ∧ t.done = false ∧
    step t = .next u ∧ u = { State.reset with done := true } ∧ statusWord u = 0x00000002)

/-- FZERO writes (0, 0), whatever the register held, and nothing else. -/
def Obligations.FzeroRule : Prop :=
  (∀ (s : State) (rd : Reg), ∃ t, exec (.fzero rd) s = .next t ∧ (readF t rd).value.val = 0 ∧
    (readF t rd).depth = 0 ∧ (fdepthWord t).extractLsb' (2 * rd.val) 2 = 0 ∧ FieldFrame rd s t) ∧
  (∀ rd : Reg, decode (BitVec.ofNat 32 (0x01 + rd.val * 2 ^ 8)) = .ok (.fzero rd)) ∧
  (∀ v : Word, v.toNat % 256 = 0x01 → v.toNat / 2 ^ 12 ≠ 0 → decode v = .error .rsvd)

/-- FONE writes (1, 0) and nothing else; stored with FSTORE it gives the buffer of the integer 1. -/
def Obligations.FoneRule : Prop :=
  (∀ (s : State) (rd : Reg), ∃ t, exec (.fone rd) s = .next t ∧ (readF t rd).value.val = 1 ∧
    (readF t rd).depth = 0 ∧ FieldFrame rd s t) ∧
  (∀ s : State, ∃ t u, exec (.fone 1) s = .next t ∧ exec (.fstore 1) t = .next u ∧
    u.data = #v[0x00000001, 0, 0, 0, 0, 0, 0, 0]) ∧
  (∀ rd : Reg, decode (BitVec.ofNat 32 (0x02 + rd.val * 2 ^ 8)) = .ok (.fone rd)) ∧
  (∀ v : Word, v.toNat % 256 = 0x02 → v.toNat / 2 ^ 12 ≠ 0 → decode v = .error .rsvd)

/-- FLOAD writes the DATA bytes as a little-endian integer, bit 255 dropped, reduced modulo p, at depth 0; two buffers
that differ only in bit 255 load the same value. -/
def Obligations.FloadRule : Prop :=
  (∀ (s : State) (rd : Reg), ∃ t, exec (.fload rd) s = .next t ∧
    (readF t rd).value.val = (∑ j : Fin 32, (dataByte s.data j).toNat * 2 ^ (8 * j.val)) % 2 ^ 255 % P ∧
    (readF t rd).depth = 0 ∧ FieldFrame rd s t) ∧
  (∀ (s s' : State) (rd : Reg), (∀ j : Fin 32, j.val < 31 → dataByte s.data j = dataByte s'.data j) →
    (dataByte s.data 31).toNat % 128 = (dataByte s'.data 31).toNat % 128 →
    ∃ t t', exec (.fload rd) s = .next t ∧ exec (.fload rd) s' = .next t' ∧ readF t rd = readF t' rd) ∧
  (∀ rd : Reg, decode (BitVec.ofNat 32 (0x03 + rd.val * 2 ^ 8)) = .ok (.fload rd)) ∧
  (∀ v : Word, v.toNat % 256 = 0x03 → v.toNat / 2 ^ 12 ≠ 0 → decode v = .error .rsvd)

/-- FSTORE writes all 32 bytes of DATA with the canonical encoding of the value, at either depth of the operand, whose
top bit is 0, and leaves the field registers; after FLOAD of the same register DATA holds the buffer reduced
modulo p. -/
def Obligations.FstoreRule : Prop :=
  (∀ (s : State) (rs1 : Reg), ∃ t, exec (.fstore rs1) s = .next t ∧
    (∀ j : Fin 32, (dataByte t.data j).toNat = (readF s rs1).value.val / 2 ^ (8 * j.val) % 256) ∧
    (dataByte t.data 31).getLsbD 7 = false ∧
    t.f = s.f ∧ t.h = s.h ∧ t.w = s.w ∧ t.mlen = s.mlen ∧ CompletionFrame s t) ∧
  (∀ (s : State) (r : Reg), ∃ t u, exec (.fload r) s = .next t ∧ exec (.fstore r) t = .next u ∧
    dataValue u.data = dataValue s.data % 2 ^ 255 % P) ∧
  (∀ rs1 : Reg, decode (BitVec.ofNat 32 (0x04 + rs1.val * 2 ^ 12)) = .ok (.fstore rs1)) ∧
  (∀ v : Word, v.toNat % 256 = 0x04 → v.toNat / 2 ^ 8 % 16 ≠ 0 ∨ v.toNat / 2 ^ 16 ≠ 0 → decode v = .error .rsvd)

/-- FADD of two depth-0 registers writes their sum modulo p at depth 1 (any of the three registers may be equal); with
an operand of depth 1 it is rejected with E_DEPTH and its destination stays. -/
def Obligations.FaddRule : Prop :=
  (∀ (s : State) (rd rs1 rs2 : Reg), (readF s rs1).depth = 0 → (readF s rs2).depth = 0 →
    ∃ t, exec (.fadd rd rs1 rs2) s = .next t ∧
      (readF t rd).value.val = ((readF s rs1).value.val + (readF s rs2).value.val) % P ∧
      (readF t rd).depth = 1 ∧ (fdepthWord t).getLsbD (2 * rd.val) = true ∧ FieldFrame rd s t) ∧
  (∀ (s : State) (rd rs1 rs2 : Reg), (readF s rs1).depth = 1 ∨ (readF s rs2).depth = 1 →
    exec (.fadd rd rs1 rs2) s = .next (rejectedState 3 s)) ∧
  (∀ rd rs1 rs2 : Reg,
    decode (BitVec.ofNat 32 (0x05 + rd.val * 2 ^ 8 + rs1.val * 2 ^ 12 + rs2.val * 2 ^ 16)) = .ok (.fadd rd rs1 rs2)) ∧
  (∀ v : Word, v.toNat % 256 = 0x05 → v.toNat / 2 ^ 20 ≠ 0 → decode v = .error .rsvd)

/-- FSUB of two depth-0 registers writes F[rs1] − F[rs2] as a non-negative residue at depth 1; with an operand of
depth 1 it is rejected with E_DEPTH. -/
def Obligations.FsubRule : Prop :=
  (∀ (s : State) (rd rs1 rs2 : Reg), (readF s rs1).depth = 0 → (readF s rs2).depth = 0 →
    ∃ t, exec (.fsub rd rs1 rs2) s = .next t ∧
      ((readF t rd).value.val : Int) = ((readF s rs1).value.val - (readF s rs2).value.val : Int) % (P : Int) ∧
      (readF t rd).depth = 1 ∧ FieldFrame rd s t) ∧
  (∀ (s : State) (rd rs1 rs2 : Reg), (readF s rs1).depth = 1 ∨ (readF s rs2).depth = 1 →
    exec (.fsub rd rs1 rs2) s = .next (rejectedState 3 s)) ∧
  (∀ rd rs1 rs2 : Reg,
    decode (BitVec.ofNat 32 (0x06 + rd.val * 2 ^ 8 + rs1.val * 2 ^ 12 + rs2.val * 2 ^ 16)) = .ok (.fsub rd rs1 rs2)) ∧
  (∀ v : Word, v.toNat % 256 = 0x06 → v.toNat / 2 ^ 20 ≠ 0 → decode v = .error .rsvd)

/-- FMUL writes the product modulo p at depth 0, for operands of either depth; a factor that holds 1 keeps the value
and drops the depth, and a register times itself is FSQR of it. -/
def Obligations.FmulRule : Prop :=
  (∀ (s : State) (rd rs1 rs2 : Reg), ∃ t, exec (.fmul rd rs1 rs2) s = .next t ∧
    (readF t rd).value.val = (readF s rs1).value.val * (readF s rs2).value.val % P ∧
    (readF t rd).depth = 0 ∧ FieldFrame rd s t ∧
    ((readF s rs2).value.val = 1 → (readF t rd).value = (readF s rs1).value)) ∧
  (∀ (s : State) (rd rs1 : Reg), exec (.fmul rd rs1 rs1) s = exec (.fsqr rd rs1) s) ∧
  (∀ rd rs1 rs2 : Reg,
    decode (BitVec.ofNat 32 (0x07 + rd.val * 2 ^ 8 + rs1.val * 2 ^ 12 + rs2.val * 2 ^ 16)) = .ok (.fmul rd rs1 rs2)) ∧
  (∀ v : Word, v.toNat % 256 = 0x07 → v.toNat / 2 ^ 20 ≠ 0 → decode v = .error .rsvd)

/-- FSQR writes the square modulo p at depth 0, the very state FMUL of the operand with itself gives; a and p − a have
one square. -/
def Obligations.FsqrRule : Prop :=
  (∀ (s : State) (rd rs1 : Reg), ∃ t, exec (.fsqr rd rs1) s = .next t ∧
    (readF t rd).value.val = (readF s rs1).value.val * (readF s rs1).value.val % P ∧
    (readF t rd).depth = 0 ∧ FieldFrame rd s t ∧ exec (.fmul rd rs1 rs1) s = .next t) ∧
  (∀ (s : State) (rd rs1 rs2 : Reg), (readF s rs1).value.val + (readF s rs2).value.val = P →
    ∃ t u, exec (.fsqr rd rs1) s = .next t ∧ exec (.fsqr rd rs2) s = .next u ∧ readF t rd = readF u rd) ∧
  (∀ rd rs1 : Reg, decode (BitVec.ofNat 32 (0x08 + rd.val * 2 ^ 8 + rs1.val * 2 ^ 12)) = .ok (.fsqr rd rs1)) ∧
  (∀ v : Word, v.toNat % 256 = 0x08 → v.toNat / 2 ^ 16 ≠ 0 → decode v = .error .rsvd)

/-- FINV writes a^(p−2) modulo p at depth 0, for an operand of either depth: the inverse of a nonzero value, and 0 for
0 without an error; 1 and p − 1 are their own inverses and 2 has the inverse 2^254 − 9. -/
def Obligations.FinvRule : Prop :=
  (∀ (s : State) (rd rs1 : Reg), ∃ t, exec (.finv rd rs1) s = .next t ∧
    (readF t rd).value.val = (readF s rs1).value.val ^ (P - 2) % P ∧
    (readF t rd).depth = 0 ∧ FieldFrame rd s t ∧
    ((readF s rs1).value.val ≠ 0 → (readF s rs1).value.val * (readF t rd).value.val % P = 1) ∧
    ((readF s rs1).value.val = 0 → (readF t rd).value.val = 0) ∧
    ((readF s rs1).value.val = 1 → (readF t rd).value.val = 1) ∧
    ((readF s rs1).value.val = P - 1 → (readF t rd).value.val = P - 1) ∧
    ((readF s rs1).value.val = 2 → (readF t rd).value.val = 2 ^ 254 - 9)) ∧
  (∀ rd rs1 : Reg, decode (BitVec.ofNat 32 (0x09 + rd.val * 2 ^ 8 + rs1.val * 2 ^ 12)) = .ok (.finv rd rs1)) ∧
  (∀ v : Word, v.toNat % 256 = 0x09 → v.toNat / 2 ^ 16 ≠ 0 → decode v = .error .rsvd)

/-- SINIT writes the initial chaining value into H and 0 into MLEN and touches no other register. The eight words are
the spec's copy of FIPS 180-4 (PRESUMED, log entry 13). -/
def Obligations.SinitRule : Prop :=
  (∀ s : State, ∃ t, exec .sinit s = .next t ∧
    t.h = #v[0x6A09E667F3BCC908, 0xBB67AE8584CAA73B, 0x3C6EF372FE94F82B, 0xA54FF53A5F1D36F1,
      0x510E527FADE682D1, 0x9B05688C2B3E6C1F, 0x1F83D9ABFB41BD6B, 0x5BE0CD19137E2179] ∧
    t.mlen = 0 ∧ t.f = s.f ∧ t.data = s.data ∧ t.w = s.w ∧ CompletionFrame s t) ∧
  decode 0x00000010 = .ok .sinit ∧
  (∀ v : Word, v.toNat % 256 = 0x10 → v.toNat / 2 ^ 8 ≠ 0 → decode v = .error .rsvd)

/-- SCOMP adds to H, word by word, the working variables of eighty rounds from H over the schedule of W, and 1024 to
MLEN; W, DATA and the field registers stay. The schedule and the rounds are given by the recurrences of
42_sha512.md, which the spec marks as general knowledge (PRESUMED, log entry 13). -/
def Obligations.ScompRule : Prop :=
  (∀ s : State, ∃ (t : State) (ws : Nat → Lane) (v : Nat → Working),
    exec .scomp s = .next t ∧
    (∀ n : Fin 16, ws n.val = s.w[n.val]) ∧
    (∀ n, 16 ≤ n → n < 80 → ws n =
      smallSigma1 (ws (n - 2)) + ws (n - 7) + smallSigma0 (ws (n - 15)) + ws (n - 16)) ∧
    v 0 = ⟨s.h[0], s.h[1], s.h[2], s.h[3], s.h[4], s.h[5], s.h[6], s.h[7]⟩ ∧
    (∀ n, n < 80 →
      let t1 := (v n).h + bigSigma1 (v n).e + ch (v n).e (v n).f (v n).g + roundConstants.getD n 0 + ws n
      let t2 := bigSigma0 (v n).a + maj (v n).a (v n).b (v n).c
      v (n + 1) = ⟨t1 + t2, (v n).a, (v n).b, (v n).c, (v n).d + t1, (v n).e, (v n).f, (v n).g⟩) ∧
    t.h = #v[s.h[0] + (v 80).a, s.h[1] + (v 80).b, s.h[2] + (v 80).c, s.h[3] + (v 80).d,
      s.h[4] + (v 80).e, s.h[5] + (v 80).f, s.h[6] + (v 80).g, s.h[7] + (v 80).h] ∧
    t.mlen.toNat = (s.mlen.toNat + 1024) % 2 ^ 128 ∧
    t.f = s.f ∧ t.data = s.data ∧ t.w = s.w ∧ CompletionFrame s t) ∧
  decode 0x00000011 = .ok .scomp ∧
  (∀ v : Word, v.toNat % 256 = 0x11 → v.toNat / 2 ^ 8 ≠ 0 → decode v = .error .rsvd)

/-- MLEN: SCOMP adds 1024 modulo 2^128, SINIT clears it, no other command changes it, and no command's other results
depend on it. -/
def Obligations.MlenIsOnlyBookkeeping : Prop :=
  (∀ s : State, ∃ t, exec .scomp s = .next t ∧ t.mlen.toNat = (s.mlen.toNat + 1024) % 2 ^ 128) ∧
  (∀ s : State, ∃ t, exec .sinit s = .next t ∧ t.mlen = 0) ∧
  (∀ (s : State) (i : Instr), i ≠ .sinit → i ≠ .scomp → ∃ t, exec i s = .next t ∧ t.mlen = s.mlen) ∧
  (∀ (s : State) (i : Instr) (m : Count),
    ∃ t m', exec i s = .next t ∧ exec i { s with mlen := m } = .next { t with mlen := m' })

/-- The window frame of all twelve commands: every offset but STATUS and those of `resultAt` reads as before, at
every access size. -/
def Obligations.CommandsLeaveTheRestOfTheWindow : Prop :=
  ∀ (i : Instr) (s : State), ∃ t, exec i s = .next t ∧
    ∀ (off : Offset) (size : Size), off.toNat ≠ 0x004 → resultAt i off.toNat = false →
      memReadValue off size t = memReadValue off size s

/-! ### The constants of SHA-512 (42_sha512.md section 2, general knowledge by its own mark) -/

/-- K[t] is the first 64 bits of the fraction of the cube root of the (t+1)-th prime, for t = 0..79, and IV[i] of the
square root of the (i+1)-th prime, for i = 0..7. -/
def Obligations.ShaConstantsAreRootsOfPrimes : Prop :=
  roundConstants.length = 80 ∧
  (∀ t, t < 80 → ∃ r : Nat, r ^ 3 ≤ Nat.nth Nat.Prime t * 2 ^ 192 ∧ Nat.nth Nat.Prime t * 2 ^ 192 < (r + 1) ^ 3 ∧
    (roundConstants.getD t 0).toNat = r % 2 ^ 64) ∧
  (∀ i : Fin 8, (initialChaining[i.val]).toNat = Nat.sqrt (Nat.nth Nat.Prime i.val * 2 ^ 128) % 2 ^ 64)

/-! ### Reset (10_state.md section 8, 70_reset_and_hazards.md) -/

/-- After reset every register has the value of rule R59; a soft reset and a hardware reset both do that in any state,
whatever else the written word asks for; a command in progress never completes. -/
def Obligations.ResetSetsEveryRegister : Prop :=
  AllReset State.reset ∧
  (∀ (s : State) (v : Word) (rest : List Input), s.rstn = true → s.inputs = .write 0x000 .four v :: rest →
    v.getLsbD 1 = true →
    ∃ t, step s = .next t ∧ AllReset t ∧ t.rstn = true ∧ t.inputs = rest ∧ t.replies = s.replies) ∧
  (∀ (s : State) (rest : List Input), s.inputs = .resetLow :: rest →
    ∃ t, step s = .next t ∧ AllReset t ∧ t.rstn = false ∧ t.inputs = rest ∧ t.replies = s.replies) ∧
  (∀ (t : State) (rest : List Input), AllReset t → t.inputs = .engine :: rest →
    step t = .next { t with inputs := rest })

/-- The soft reset and the hardware reset have one effect; while `rst_n` is low a write has no effect, a read returns
0 and records no error. Two clauses are the model's inference (DEDUCED, log entry 3): while `rst_n` is low the engine
does nothing, and `rst_n` going high changes no register. -/
def Obligations.HeldInResetNothingHappens : Prop :=
  (∀ (s : State) (v : Word) (rest : List Input), s.rstn = true → v.getLsbD 1 = true →
    ∃ t, step { s with inputs := .write 0x000 .four v :: rest } = .next t ∧
      step { s with inputs := .resetLow :: rest } = .next { t with rstn := false }) ∧
  (∀ (s : State) (off : Offset) (size : Size) (v : Word) (rest : List Input), s.rstn = false →
    (s.inputs = .write off size v :: rest → step s = .next { s with inputs := rest }) ∧
    (s.inputs = .read off size :: rest →
      step s = .next { s with inputs := rest, replies := 0 :: s.replies }) ∧
    (s.inputs = .engine :: rest → step s = .next { s with inputs := rest })) ∧
  (∀ (s : State) (rest : List Input), s.inputs = .resetHigh :: rest →
    step s = .next { s with inputs := rest, rstn := true })

/-! ### Invariant and safety -/

/-- The invariant holds after reset. -/
def Obligations.InvariantHoldsAfterReset : Prop := UnitInv State.reset

/-- Every step keeps the invariant: ERR = 0 exactly when ERRCODE = 0, ERRCODE at most 5, PEND = LASTCMD, a busy unit
is not done, and a unit held in reset has its reset values. -/
def Obligations.EveryStepKeepsTheInvariant : Prop :=
  ∀ s t : State, UnitInv s → step s = .next t → UnitInv t

/-- No run stops, whatever the events: the unit has no fault, halt or lock-up. -/
def Obligations.NoRunEverStops : Prop :=
  ∀ (n : Nat) (s : State), Safe n s

/-! ### The register window (20_memory.md) -/

/-- A well-formed read returns the register's value, while a command runs too, and changes nothing; reading again
returns the same value. -/
def Obligations.ReadsHaveNoSideEffects : Prop :=
  ∀ (s : State) (off : Offset) (rest : List Input), s.rstn = true → off.toNat % 4 = 0 →
    s.inputs = .read off .four :: .read off .four :: rest →
    ∃ v t, v = readReg s (regAt off) ∧ step s = .next t ∧
      t = { s with inputs := .read off .four :: rest, replies := v :: s.replies } ∧
      step t = .next { s with inputs := rest, replies := v :: v :: s.replies }

/-- An access that is not four bytes at a multiple of four records E_ACCESS and does nothing else, at every offset,
whether or not a command runs; a read returns 0. -/
def Obligations.MalformedAccessRecordsAccessError : Prop :=
  ∀ (s : State) (off : Offset) (size : Size) (v : Word) (rest : List Input), s.rstn = true →
    (size ≠ .four ∨ off.toNat % 4 ≠ 0) →
    (s.inputs = .write off size v :: rest → step s = .next (erredState 5 { s with inputs := rest })) ∧
    (s.inputs = .read off size :: rest →
      step s = .next (erredState 5 { s with inputs := rest, replies := 0 :: s.replies }))

/-- A write of CMD while no command runs accepts any word: PEND and LASTCMD take it, DONE clears, BUSY sets, and
nothing else changes. -/
def Obligations.CommandWriteIsAccepted : Prop :=
  ∀ (s : State) (v : Word) (rest : List Input), s.rstn = true → s.busy = false →
    s.inputs = .write 0x008 .four v :: rest →
    step s = .next { s with inputs := rest, pend := v, lastcmd := v, done := false, busy := true }

/-- While a command runs, a write to CMD or to an operand register records E_BUSY and does nothing else. -/
def Obligations.WritesWhileBusyAreRefused : Prop :=
  ∀ (s : State) (off : Offset) (v : Word) (rest : List Input), s.rstn = true → s.busy = true →
    off.toNat % 4 = 0 → (off.toNat = 0x008 ∨ 0x020 ≤ off.toNat ∧ off.toNat < 0x110) →
    s.inputs = .write off .four v :: rest → step s = .next (erredState 4 { s with inputs := rest })

/-- While a command runs, no host access but a soft reset changes PEND, BUSY or any operand register, and writes to
DATA, H, W and MLEN record E_BUSY. -/
def Obligations.HostCannotDisturbARunningCommand : Prop :=
  ∀ (s t : State) (x : Input) (rest : List Input), s.busy = true → s.rstn = true → s.inputs = x :: rest →
    (x ≠ .engine ∧ x ≠ .resetLow ∧ ∀ v : Word, v.getLsbD 1 = true → x ≠ .write 0x000 .four v) →
    step s = .next t →
    t.pend = s.pend ∧ t.busy = true ∧ t.f = s.f ∧ t.data = s.data ∧ t.h = s.h ∧ t.w = s.w ∧ t.mlen = s.mlen ∧
      (∀ (off : Offset) (v : Word), x = .write off .four v → off.toNat % 4 = 0 → 0x020 ≤ off.toNat →
        off.toNat < 0x110 → t.err = true ∧ (s.err = false → t.errcode = 4))

/-- A write to STATUS clears DONE by bit 1 and ERR with ERRCODE by bit 2, at any value of BUSY, and does nothing
else. -/
def Obligations.StatusWriteClears : Prop :=
  ∀ (s : State) (v : Word) (rest : List Input), s.rstn = true → s.inputs = .write 0x004 .four v :: rest →
    step s = .next { s with
      inputs := rest
      done := if v.getLsbD 1 then false else s.done
      err := if v.getLsbD 2 then false else s.err
      errcode := if v.getLsbD 2 then 0 else s.errcode }

/-- A write to CTRL sets IE from bit 0 or, when bit 1 is set, resets the unit and leaves IE 0, at any value of BUSY. -/
def Obligations.CtrlWriteSetsEnableOrResets : Prop :=
  ∀ (s : State) (v : Word) (rest : List Input), s.rstn = true → s.inputs = .write 0x000 .four v :: rest →
    step s = .next (if v.getLsbD 1 then { State.reset with inputs := rest, replies := s.replies }
      else { s with inputs := rest, ie := v.getLsbD 0 })

/-- Writes to ID, FDEPTH and the reserved offsets are ignored without an error, reserved offsets read 0 without one,
and ID always reads 0x25519001. -/
def Obligations.ReservedAndReadOnlyOffsets : Prop :=
  ∀ (s : State) (off : Offset), off.toNat % 4 = 0 →
    ((off.toNat = 0x00C ∨ off.toNat = 0x010 ∨ 0x014 ≤ off.toNat ∧ off.toNat < 0x020 ∨ 0x110 ≤ off.toNat) →
      ∀ v : Word, memWrite off .four v s = s) ∧
    ((0x014 ≤ off.toNat ∧ off.toNat < 0x020 ∨ 0x110 ≤ off.toNat) →
      memReadValue off .four s = 0 ∧ memReadState off .four s = s) ∧
    (off.toNat = 0x00C → memReadValue off .four s = 0x25519001)

/-- What each word-aligned offset of the window reads: every register of the map, ID and the reserved offsets among
them. -/
def Obligations.WindowReadsEachRegister : Prop :=
  ∀ s : State,
    (memReadValue 0x000 .four s).toNat = s.ie.toNat ∧
    (memReadValue 0x004 .four s).toNat =
      s.busy.toNat + 2 * s.done.toNat + 4 * s.err.toNat + 16 * s.errcode.toNat ∧
    memReadValue 0x008 .four s = s.lastcmd ∧
    memReadValue 0x00C .four s = 0x25519001 ∧
    (memReadValue 0x010 .four s).toNat = ∑ i : Reg, (readF s i).depth.val * 4 ^ i.val ∧
    (∀ off : Offset, off.toNat % 4 = 0 → (0x014 ≤ off.toNat ∧ off.toNat < 0x020 ∨ 0x110 ≤ off.toNat) →
      memReadValue off .four s = 0) ∧
    (∀ k : Fin 8, memReadValue (BitVec.ofNat 12 (0x020 + 4 * k.val)) .four s = s.data[k.val]) ∧
    (∀ i : Fin 8,
      (memReadValue (BitVec.ofNat 12 (0x040 + 8 * i.val)) .four s).toNat = s.h[i.val].toNat % 2 ^ 32 ∧
      (memReadValue (BitVec.ofNat 12 (0x044 + 8 * i.val)) .four s).toNat = s.h[i.val].toNat / 2 ^ 32) ∧
    (∀ i : Fin 16,
      (memReadValue (BitVec.ofNat 12 (0x080 + 8 * i.val)) .four s).toNat = s.w[i.val].toNat % 2 ^ 32 ∧
      (memReadValue (BitVec.ofNat 12 (0x084 + 8 * i.val)) .four s).toNat = s.w[i.val].toNat / 2 ^ 32) ∧
    (∀ m : Fin 4, (memReadValue (BitVec.ofNat 12 (0x100 + 4 * m.val)) .four s).toNat =
      s.mlen.toNat / 2 ^ (32 * m.val) % 2 ^ 32)

/-- FDEPTH holds the depth of register i in bits 2i+1:2i, bit 2i+1 reads 0, a write to it changes nothing, and it is
0 after reset. -/
def Obligations.FdepthShowsEveryDepth : Prop :=
  (∀ (s : State) (i : Reg), ((memReadValue 0x010 .four s).extractLsb' (2 * i.val) 2).toNat = (readF s i).depth.val ∧
    (memReadValue 0x010 .four s).getLsbD (2 * i.val + 1) = false) ∧
  (∀ (s : State) (v : Word), memWrite 0x010 .four v s = s) ∧
  memReadValue 0x010 .four State.reset = 0

/-- In an idle unit a word written at the offset of an operand register reads back, and every other offset of the
window reads as before. -/
def Obligations.OperandWritesReadBack : Prop :=
  ∀ (s : State) (off : Offset) (v : Word), s.busy = false → off.toNat % 4 = 0 → 0x020 ≤ off.toNat →
    off.toNat < 0x110 →
    memReadValue off .four (memWrite off .four v s) = v ∧
    ∀ off' : Offset, off' ≠ off → memReadValue off' .four (memWrite off .four v s) = memReadValue off' .four s

/-- H, W and MLEN are written 32 bits at a time, the rest of the register and every other register unchanged; the
reads return the same slices; while a command runs the write is dropped with E_BUSY. -/
def Obligations.WideRegistersAreWrittenInHalves : Prop :=
  (∀ (s : State) (i : Fin 8) (v : Word), s.busy = false → ∃ lo hi : Lane,
    memWrite (BitVec.ofNat 12 (0x040 + 8 * i.val)) .four v s = { s with h := s.h.set i.val lo } ∧
    memWrite (BitVec.ofNat 12 (0x044 + 8 * i.val)) .four v s = { s with h := s.h.set i.val hi } ∧
    (∀ b, b < 64 → lo.getLsbD b = if b < 32 then v.getLsbD b else s.h[i.val].getLsbD b) ∧
    (∀ b, b < 64 → hi.getLsbD b = if b < 32 then s.h[i.val].getLsbD b else v.getLsbD (b - 32))) ∧
  (∀ (s : State) (i : Fin 16) (v : Word), s.busy = false → ∃ lo hi : Lane,
    memWrite (BitVec.ofNat 12 (0x080 + 8 * i.val)) .four v s = { s with w := s.w.set i.val lo } ∧
    memWrite (BitVec.ofNat 12 (0x084 + 8 * i.val)) .four v s = { s with w := s.w.set i.val hi } ∧
    (∀ b, b < 64 → lo.getLsbD b = if b < 32 then v.getLsbD b else s.w[i.val].getLsbD b) ∧
    (∀ b, b < 64 → hi.getLsbD b = if b < 32 then s.w[i.val].getLsbD b else v.getLsbD (b - 32))) ∧
  (∀ (s : State) (m : Fin 4) (v : Word), s.busy = false → ∃ x : Count,
    memWrite (BitVec.ofNat 12 (0x100 + 4 * m.val)) .four v s = { s with mlen := x } ∧
    ∀ b, b < 128 → x.getLsbD b =
      if 32 * m.val ≤ b ∧ b < 32 * m.val + 32 then v.getLsbD (b - 32 * m.val) else s.mlen.getLsbD b) ∧
  (∀ (s : State) (i : Fin 8), memReadValue (BitVec.ofNat 12 (0x040 + 8 * i.val)) .four s = s.h[i.val].extractLsb' 0 32 ∧
    memReadValue (BitVec.ofNat 12 (0x044 + 8 * i.val)) .four s = s.h[i.val].extractLsb' 32 32) ∧
  (∀ (s : State) (i : Fin 16), memReadValue (BitVec.ofNat 12 (0x080 + 8 * i.val)) .four s = s.w[i.val].extractLsb' 0 32 ∧
    memReadValue (BitVec.ofNat 12 (0x084 + 8 * i.val)) .four s = s.w[i.val].extractLsb' 32 32) ∧
  (∀ (s : State) (m : Fin 4),
    memReadValue (BitVec.ofNat 12 (0x100 + 4 * m.val)) .four s = s.mlen.extractLsb' (32 * m.val) 32) ∧
  (∀ (s : State) (off : Offset) (v : Word), s.busy = true → off.toNat % 4 = 0 → 0x040 ≤ off.toNat →
    off.toNat < 0x110 → memWrite off .four v s = erredState 4 s)

/-! ### Flags and whole-machine rules (60_exceptions.md) -/

/-- Recording keeps the first error, and over a step a recorded error stays, with its code, unless the step is a
STATUS write with bit 2 set or a reset. -/
def Obligations.FirstErrorStays : Prop :=
  (∀ (e : ErrCode) (s : State), recordError e s = if s.err then s else { s with err := true, errcode := e.code }) ∧
  (∀ s t : State, step s = .next t → s.err = true →
    t.err = true ∧ t.errcode = s.errcode ∨ NextResets s ∨
      ∃ v : Word, s.inputs.head? = some (.write 0x004 .four v) ∧ v.getLsbD 2 = true)

/-- DONE is set by every completion, rejected ones too, and over a step it changes only by a completion, the
acceptance of a command, a STATUS write with bit 1 set, or a reset; after an acceptance DONE = 1 means completed. -/
def Obligations.DoneMarksCompletion : Prop :=
  (∀ (s t : State) (v : Word), NextCompletes s v → step s = .next t → t.done = true ∧ t.busy = false) ∧
  (∀ s t : State, step s = .next t → t.done ≠ s.done →
    (∃ v, NextCompletes s v) ∨ NextWrites s 0x008 0x00C ∨ NextResets s ∨
      ∃ v : Word, s.rstn = true ∧ s.inputs.head? = some (.write 0x004 .four v) ∧ v.getLsbD 1 = true) ∧
  (∀ s t : State, step s = .next t → s.busy = true → s.done = false → t.busy = true → t.done = false)

/-- What can change each register over a step, a reset apart: F[r] only the completion of a command whose RD is r (rule
R35: FZERO, FONE, FLOAD, FADD, FSUB, FMUL, FSQR, FINV); W only a host write to it; DATA only a host write or FSTORE; H
and MLEN only a host write, SINIT or SCOMP; IE only a CTRL write; PEND and LASTCMD only an accepted CMD write; BUSY
only that or a completion. -/
def Obligations.RegistersChangeOnlyByTheirWriters : Prop :=
  ∀ s t : State, step s = .next t → ¬ NextResets s →
    (∀ r : Reg, readF t r ≠ readF s r → ∃ v i, NextCompletes s v ∧ decode v = .ok i ∧ i.fieldDest = some r) ∧
    (t.w ≠ s.w → NextWrites s 0x080 0x100) ∧
    (t.data ≠ s.data → NextWrites s 0x020 0x040 ∨ ∃ v r, NextCompletes s v ∧ decode v = .ok (.fstore r)) ∧
    (t.h ≠ s.h → NextWrites s 0x040 0x080 ∨
      ∃ v, NextCompletes s v ∧ (decode v = .ok .sinit ∨ decode v = .ok .scomp)) ∧
    (t.mlen ≠ s.mlen → NextWrites s 0x100 0x110 ∨
      ∃ v, NextCompletes s v ∧ (decode v = .ok .sinit ∨ decode v = .ok .scomp)) ∧
    (t.ie ≠ s.ie → NextWrites { s with busy := false } 0x000 0x004) ∧
    (t.lastcmd ≠ s.lastcmd → NextWrites s 0x008 0x00C) ∧
    (t.pend ≠ s.pend → NextWrites s 0x008 0x00C) ∧
    (t.busy ≠ s.busy → NextWrites s 0x008 0x00C ∨ ∃ v, NextCompletes s v)

/-- The interrupt line: high exactly when enabled with DONE or ERR set; a completion raises it when enabled; `ack`
lowers it; a new command lowers it unless an error is recorded. -/
def Obligations.InterruptFollowsDoneAndErr : Prop :=
  (∀ s : State, irq s = true ↔ s.ie = true ∧ (s.done = true ∨ s.err = true)) ∧
  (∀ (v : Word) (s t : State), completeWord v s = .next t → irq t = s.ie) ∧
  (∀ s : State, irq (memWrite 0x004 .four 0x00000006 s) = false) ∧
  (∀ (s : State) (v : Word), s.busy = false → irq (memWrite 0x008 .four v s) = (s.ie && s.err))

/-- A recorded error stops nothing: with any ERR and ERRCODE a command is accepted, and its completion gives the same
registers; writing 1 to ERR clears both. -/
def Obligations.RecordedErrorDoesNotBlock : Prop :=
  (∀ (v : Word) (s : State) (b : Bool) (c : BitVec 4), ∃ t b' c', completeWord v s = .next t ∧
    completeWord v { s with err := b, errcode := c } = .next { t with err := b', errcode := c' }) ∧
  (∀ (v : Word) (s : State) (b : Bool) (c : BitVec 4), s.busy = false →
    memWrite 0x008 .four v { s with err := b, errcode := c } =
      { s with err := b, errcode := c, pend := v, lastcmd := v, done := false, busy := true }) ∧
  (∀ s : State, memWrite 0x004 .four 0x00000004 s = { s with err := false, errcode := 0 })

/-- Whether and how a command is rejected depends only on its word and on the depth tags, never on a field value, on
DATA, H, W or MLEN. -/
def Obligations.RejectionDependsOnWordAndDepths : Prop :=
  ∀ (v : Word) (s s' : State), (∀ r : Reg, (readF s r).depth = (readF s' r).depth) → s.err = s'.err →
    s.errcode = s'.errcode →
    ∃ t t', completeWord v s = .next t ∧ completeWord v s' = .next t' ∧ t.err = t'.err ∧ t.errcode = t'.errcode

/-- `run X` ends in one and the same state of the unit however many polls find the command still running, and its
last poll finds DONE set; that state is the command's completion after its acceptance (the timing is left open:
DESIGN CHOICE, log entries 1, 6 and 10). -/
def Obligations.LatencyDoesNotMatter : Prop :=
  ∀ (s : State) (x : Instr) (polls : Nat), s.rstn = true → s.busy = false →
    ∃ t u, Host.Core.run Sys2Proof.core (polls + 3) { s with inputs := (Pseudo.run x polls).expand } = .next t ∧
      exec x { s with pend := encode x, lastcmd := encode x, done := false, busy := true } = .next u ∧
      unitOf t = unitOf u ∧ t.inputs = [] ∧ ∃ v, t.replies.head? = some v ∧ v.getLsbD 1 = true

/-- The host's byte conventions: `ldata` leaves its 32 bytes in DATA, `ldblk` leaves its 128 bytes in W as big-endian
words, each without changing another register, and the digest lists the bytes of H from the most significant down. -/
def Obligations.HostByteOrder : Prop :=
  (∀ (s : State) (b : List Byte), s.rstn = true → s.busy = false → b.length = 32 →
    ∃ d, Host.Core.run Sys2Proof.core 8 { s with inputs := (Pseudo.ldata b).expand } =
        .next { s with inputs := [], data := d } ∧ dataBytes d = b) ∧
  (∀ (s : State) (m : List Byte), s.rstn = true → s.busy = false → m.length = 128 →
    ∃ w, Host.Core.run Sys2Proof.core 32 { s with inputs := (Pseudo.ldblk m).expand } =
        .next { s with inputs := [], w := w } ∧
      ∀ (t : Fin 16) (j : Fin 8), (w[t.val]).extractLsb' (56 - 8 * j.val) 8 = m.getD (8 * t.val + j.val) 0) ∧
  (∀ h : Vector Lane 8, (digestBytes h).length = 64 ∧
    ∀ i j : Fin 8, (digestBytes h).getD (8 * i.val + j.val) 0 = (h[i.val]).extractLsb' (56 - 8 * j.val) 8)

/-! ### The limb level (10_state.md section 3, 40 and 41): the algorithms compute the values -/

/-- FLOAD's split takes the bits of limb i from the integer and gives limbs in [0, 2^26) that represent the loaded value at depth 0. -/
def Obligations.LoadedLimbsRepresentTheValue : Prop :=
  ∀ n : Nat, n < 2 ^ 255 → Represents (limbsOfNat n) ⟨fpOfNat n, 0⟩ ∧
    ∀ i : Fin nLimb, (limbsOfNat n)[i.val] = (n : Int) / 2 ^ limbWeight i.val % 2 ^ limbWidth i.val ∧
      0 ≤ (limbsOfNat n)[i.val] ∧ (limbsOfNat n)[i.val] < 2 ^ 26

/-- Limb-wise addition and subtraction of depth-0 registers represent the sum and the difference at depth 1, and no
limb leaves the signed 32-bit range. -/
def Obligations.LimbAddAndSubRepresent : Prop :=
  ∀ (f g : Limbs) (a b : FReg), a.depth = 0 → b.depth = 0 → Represents f a → Represents g b →
    Represents (limbAdd f g) ⟨fpAdd a.value b.value, 1⟩ ∧ Represents (limbSub f g) ⟨fpSub a.value b.value, 1⟩ ∧
    ∀ i : Fin nLimb, (limbAdd f g)[i.val] = f[i.val] + g[i.val] ∧ (limbSub f g)[i.val] = f[i.val] - g[i.val] ∧
      -2 ^ 31 ≤ (limbAdd f g)[i.val] ∧ (limbAdd f g)[i.val] < 2 ^ 31 ∧
      -2 ^ 31 ≤ (limbSub f g)[i.val] ∧ (limbSub f g)[i.val] < 2 ^ 31

/-- The folded columns of two operands of depth at most 1 fit a signed 64-bit accumulator and have the value of the
product (the column analysis of 41_field_arith.md section 4, which the spec marks as derived). -/
def Obligations.MultiplierColumnsFit : Prop :=
  ∀ (f g : Limbs) (a b : FReg), Represents f a → Represents g b →
    (∀ k : Fin nLimb, (foldedColumn f g k.val).natAbs < 2 ^ 63) ∧
    limbValue (limbColumns f g) = fpMul a.value b.value

/-- The two carry sweeps leave limbs that represent the product at depth 0, in the ranges of 41_field_arith.md
section 4 (marked as derived there). -/
def Obligations.LimbMulRepresentsTheProduct : Prop :=
  ∀ (f g : Limbs) (a b : FReg), Represents f a → Represents g b →
    Represents (limbMul f g) ⟨fpMul a.value b.value, 0⟩ ∧
    -19 ≤ (limbMul f g)[0] ∧ (limbMul f g)[0] ≤ 2 ^ 26 + 18 ∧
    ∀ i : Fin nLimb, i.val ≠ 0 → 0 ≤ (limbMul f g)[i.val] ∧ (limbMul f g)[i.val] < 2 ^ limbWidth i.val

/-- The symmetric squaring has the columns of the product of an operand with itself, so the same limbs
(41_field_arith.md section 5, marked as derived). -/
def Obligations.SymmetricSquareIsTheProduct : Prop :=
  ∀ f : Limbs, squareColumns f = limbColumns f f ∧ limbSqr f = limbMul f f

/-- The limb-level store produces the 32 bytes of the canonical value for every limb vector within the bound of its
depth. Its three carry sweeps are the model's choice (DESIGN CHOICE, log entry 9). -/
def Obligations.LimbStoreIsCanonical : Prop :=
  ∀ (l : Limbs) (r : FReg), Represents l r → limbToBytes l = leBytes 32 r.value.val

/-- The addition chain raises to p − 2 with 254 squarings and 11 multiplications, gives FINV's value, and on limbs
gives limbs that represent it at depth 0 (41_field_arith.md section 6, marked as derived). -/
def Obligations.InversionChainComputesTheInverse : Prop :=
  invertChain (fun x y : Nat => x + y) (fun x => 2 * x) 1 = P - 2 ∧
  (invertSteps.map ChainOp.squarings).sum = 254 ∧ (invertSteps.map ChainOp.mults).sum = 11 ∧
  (∀ a : Fp, invertChain fpMul fpSqr a = fpInv a) ∧
  (∀ (l : Limbs) (r : FReg), Represents l r → Represents (limbInvert l) ⟨fpInv r.value, 0⟩)

/-- The laws of the field on values: both operations commutative and associative, distributive, 0 and 1 neutral,
subtraction undoes addition, and every nonzero value times its inverse is 1 (41_field_arith.md section 7, marked as
derived). -/
def Obligations.FieldLaws : Prop :=
  ∀ x y z : Fp, fpAdd x y = fpAdd y x ∧ fpAdd (fpAdd x y) z = fpAdd x (fpAdd y z) ∧ fpAdd x fpZero = x ∧
    fpMul x y = fpMul y x ∧ fpMul (fpMul x y) z = fpMul x (fpMul y z) ∧ fpMul x fpOne = x ∧
    fpMul (fpAdd x y) z = fpAdd (fpMul x z) (fpMul y z) ∧ fpSub (fpAdd x y) y = x ∧ fpSub x x = fpZero ∧
    (x ≠ fpZero → fpMul x (fpInv x) = fpOne)
end

