-- ==== Sys2Proof/Laws/Encoding.lean ====
section
/-! SUPPORT. The five fields of a command word: putting them together and taking them apart (rules R131, R135). -/

namespace Sys2Proof

/-- The word of a command as a number (rule R135's formula, with the reserved field too). -/
theorem Command.word_toNat (c : Command) :
    c.word.toNat = c.opc.toNat + c.rd.toNat * 2 ^ 8 + c.rs1.toNat * 2 ^ 12 + c.rs2.toNat * 2 ^ 16 +
      c.rsvd.toNat * 2 ^ 20 := by
  have := c.opc.isLt
  have := c.rd.isLt
  have := c.rs1.isLt
  have := c.rs2.isLt
  have := c.rsvd.isLt
  simp only [Command.word, BitVec.toNat_append]
  rw [← Nat.shiftLeft_add_eq_or_of_lt (by omega), ← Nat.shiftLeft_add_eq_or_of_lt (by omega),
    ← Nat.shiftLeft_add_eq_or_of_lt (by omega), ← Nat.shiftLeft_add_eq_or_of_lt (by omega)]
  simp only [Nat.shiftLeft_eq]
  omega

/-- Taking the word of a command apart gives the command back. -/
@[simp] theorem fieldsOf_word (c : Command) : fieldsOf c.word = c := by
  have := c.opc.isLt
  have := c.rd.isLt
  have := c.rs1.isLt
  have := c.rs2.isLt
  have h := c.word_toNat
  cases c with
  | mk opc rd rs1 rs2 rsvd =>
    simp only [fieldsOf, Command.mk.injEq] at *
    refine ⟨?_, ?_, ?_, ?_, ?_⟩ <;> apply BitVec.eq_of_toNat_eq <;>
      simp only [BitVec.extractLsb'_toNat, h, Nat.shiftRight_eq_div_pow] <;> omega

/-- Every word is the word of its fields: the five fields leave out no bit. -/
@[simp] theorem word_fieldsOf (v : Word) : (fieldsOf v).word = v := by
  apply BitVec.eq_of_toNat_eq
  have := v.isLt
  simp only [Command.word_toNat, fieldsOf, BitVec.extractLsb'_toNat, Nat.shiftRight_eq_div_pow]
  omega

end Sys2Proof
end

