-- ==== Sys2Proof/Laws/Field.lean ====
section
/-! SUPPORT. What each operation on field values computes, as an equation on its integer (rules R191–R200). -/

namespace Sys2Proof.Machine

open Sys2Proof.Config

theorem P_eq : P = 57896044618658097711785492504343953926634992332820282019728792003956564819949 := by
  decide

@[simp] theorem fpOfNat_val (v : Nat) : (fpOfNat v).val = v % P := rfl

/-- A value in range is its own residue. -/
@[simp] theorem fpOfNat_val_self (a : Fp) : fpOfNat a.val = a := Fin.ext (Nat.mod_eq_of_lt a.isLt)

theorem fpOfInt_val (v : Int) : ((fpOfInt v).val : Int) = v % (P : Int) := by
  have hp : (P : Int) ≠ 0 := by rw [P_eq]; decide
  have h0 : 0 ≤ v % (P : Int) := Int.emod_nonneg v hp
  rw [fpOfInt, fpOfNat_val, Int.natCast_emod, Int.toNat_of_nonneg h0, Int.emod_emod_of_dvd _ (dvd_refl _)]

@[simp] theorem fpAdd_val (a b : Fp) : (fpAdd a b).val = (a.val + b.val) % P := rfl

theorem fpSub_val (a b : Fp) : ((fpSub a b).val : Int) = ((a.val : Int) - b.val) % (P : Int) := fpOfInt_val _

@[simp] theorem fpMul_val (a b : Fp) : (fpMul a b).val = a.val * b.val % P := rfl

/-- "must agree with multiplication on all inputs" (rule R198). -/
theorem fpSqr_eq_fpMul (a : Fp) : fpSqr a = fpMul a a := rfl

/-- Squaring computes the power: `powMod` is `b^e mod m` for every exponent of at most `bits` bits. -/
theorem powMod_eq (m bits b e : Nat) (h : e < 2 ^ bits) : powMod m bits b e = b ^ e % m := by
  induction bits generalizing b e with
  | zero => simp [powMod, show e = 0 by simpa using h]
  | succ n ih =>
    have he : e / 2 < 2 ^ n := by rw [pow_succ] at h; omega
    have sq : powMod m n (b * b % m) (e / 2) = (b * b) ^ (e / 2) % m := by
      rw [ih _ _ he, ← Nat.pow_mod]
    have split : e = 2 * (e / 2) + e % 2 := (Nat.div_add_mod e 2).symm
    rw [powMod, sq]
    by_cases odd : e % 2 = 1
    · rw [if_pos odd, Nat.mul_mod_mod]
      congr 1
      conv_rhs => rw [split, odd, pow_succ, pow_mul, pow_two]
      ring
    · rw [if_neg odd]
      congr 1
      conv_rhs => rw [split, show e % 2 = 0 by omega, Nat.add_zero, pow_mul, pow_two]

theorem fpInv_val (a : Fp) : (fpInv a).val = a.val ^ (P - 2) % P := by
  have h : P - 2 < 2 ^ 255 := by rw [P_eq]; norm_num
  rw [fpInv, fpOfNat_val, powMod_eq _ _ _ _ h, Nat.mod_mod]

end Sys2Proof.Machine
end

