-- ==== Sys2Proof/Laws/State.lean ====
section
/-! SUPPORT. One lemma per field per update of the state, so that no later proof unfolds a record update. -/

namespace Sys2Proof.Machine

@[simp] theorem writeF_f (i : Reg) (r : FReg) (s : State) : (writeF i r s).f = s.f.set i.val r := rfl
@[simp] theorem writeF_data (i : Reg) (r : FReg) (s : State) : (writeF i r s).data = s.data := rfl
@[simp] theorem writeF_h (i : Reg) (r : FReg) (s : State) : (writeF i r s).h = s.h := rfl
@[simp] theorem writeF_w (i : Reg) (r : FReg) (s : State) : (writeF i r s).w = s.w := rfl
@[simp] theorem writeF_mlen (i : Reg) (r : FReg) (s : State) : (writeF i r s).mlen = s.mlen := rfl
@[simp] theorem writeF_ie (i : Reg) (r : FReg) (s : State) : (writeF i r s).ie = s.ie := rfl
@[simp] theorem writeF_busy (i : Reg) (r : FReg) (s : State) : (writeF i r s).busy = s.busy := rfl
@[simp] theorem writeF_done (i : Reg) (r : FReg) (s : State) : (writeF i r s).done = s.done := rfl
@[simp] theorem writeF_err (i : Reg) (r : FReg) (s : State) : (writeF i r s).err = s.err := rfl
@[simp] theorem writeF_errcode (i : Reg) (r : FReg) (s : State) : (writeF i r s).errcode = s.errcode := rfl
@[simp] theorem writeF_lastcmd (i : Reg) (r : FReg) (s : State) : (writeF i r s).lastcmd = s.lastcmd := rfl
@[simp] theorem writeF_pend (i : Reg) (r : FReg) (s : State) : (writeF i r s).pend = s.pend := rfl
@[simp] theorem writeF_rstn (i : Reg) (r : FReg) (s : State) : (writeF i r s).rstn = s.rstn := rfl
@[simp] theorem writeF_inputs (i : Reg) (r : FReg) (s : State) : (writeF i r s).inputs = s.inputs := rfl
@[simp] theorem writeF_replies (i : Reg) (r : FReg) (s : State) : (writeF i r s).replies = s.replies := rfl

@[simp] theorem complete_f (s : State) : (complete s).f = s.f := rfl
@[simp] theorem complete_data (s : State) : (complete s).data = s.data := rfl
@[simp] theorem complete_h (s : State) : (complete s).h = s.h := rfl
@[simp] theorem complete_w (s : State) : (complete s).w = s.w := rfl
@[simp] theorem complete_mlen (s : State) : (complete s).mlen = s.mlen := rfl
@[simp] theorem complete_ie (s : State) : (complete s).ie = s.ie := rfl
@[simp] theorem complete_busy (s : State) : (complete s).busy = false := rfl
@[simp] theorem complete_done (s : State) : (complete s).done = true := rfl
@[simp] theorem complete_err (s : State) : (complete s).err = s.err := rfl
@[simp] theorem complete_errcode (s : State) : (complete s).errcode = s.errcode := rfl
@[simp] theorem complete_lastcmd (s : State) : (complete s).lastcmd = s.lastcmd := rfl
@[simp] theorem complete_pend (s : State) : (complete s).pend = s.pend := rfl
@[simp] theorem complete_rstn (s : State) : (complete s).rstn = s.rstn := rfl
@[simp] theorem complete_inputs (s : State) : (complete s).inputs = s.inputs := rfl
@[simp] theorem complete_replies (s : State) : (complete s).replies = s.replies := rfl

@[simp] theorem accept_f (v : Word) (s : State) : (accept v s).f = s.f := rfl
@[simp] theorem accept_data (v : Word) (s : State) : (accept v s).data = s.data := rfl
@[simp] theorem accept_h (v : Word) (s : State) : (accept v s).h = s.h := rfl
@[simp] theorem accept_w (v : Word) (s : State) : (accept v s).w = s.w := rfl
@[simp] theorem accept_mlen (v : Word) (s : State) : (accept v s).mlen = s.mlen := rfl
@[simp] theorem accept_ie (v : Word) (s : State) : (accept v s).ie = s.ie := rfl
@[simp] theorem accept_busy (v : Word) (s : State) : (accept v s).busy = true := rfl
@[simp] theorem accept_done (v : Word) (s : State) : (accept v s).done = false := rfl
@[simp] theorem accept_err (v : Word) (s : State) : (accept v s).err = s.err := rfl
@[simp] theorem accept_errcode (v : Word) (s : State) : (accept v s).errcode = s.errcode := rfl
@[simp] theorem accept_lastcmd (v : Word) (s : State) : (accept v s).lastcmd = v := rfl
@[simp] theorem accept_pend (v : Word) (s : State) : (accept v s).pend = v := rfl
@[simp] theorem accept_rstn (v : Word) (s : State) : (accept v s).rstn = s.rstn := rfl
@[simp] theorem accept_inputs (v : Word) (s : State) : (accept v s).inputs = s.inputs := rfl
@[simp] theorem accept_replies (v : Word) (s : State) : (accept v s).replies = s.replies := rfl

@[simp] theorem acknowledge_f (v : Word) (s : State) : (acknowledge v s).f = s.f := rfl
@[simp] theorem acknowledge_data (v : Word) (s : State) : (acknowledge v s).data = s.data := rfl
@[simp] theorem acknowledge_h (v : Word) (s : State) : (acknowledge v s).h = s.h := rfl
@[simp] theorem acknowledge_w (v : Word) (s : State) : (acknowledge v s).w = s.w := rfl
@[simp] theorem acknowledge_mlen (v : Word) (s : State) : (acknowledge v s).mlen = s.mlen := rfl
@[simp] theorem acknowledge_ie (v : Word) (s : State) : (acknowledge v s).ie = s.ie := rfl
@[simp] theorem acknowledge_busy (v : Word) (s : State) : (acknowledge v s).busy = s.busy := rfl
@[simp] theorem acknowledge_done (v : Word) (s : State) : (acknowledge v s).done = (s.done && !v.getLsbD 1) := rfl
@[simp] theorem acknowledge_err (v : Word) (s : State) : (acknowledge v s).err = (s.err && !v.getLsbD 2) := rfl
@[simp] theorem acknowledge_errcode (v : Word) (s : State) : (acknowledge v s).errcode = if v.getLsbD 2 then 0 else s.errcode := rfl
@[simp] theorem acknowledge_lastcmd (v : Word) (s : State) : (acknowledge v s).lastcmd = s.lastcmd := rfl
@[simp] theorem acknowledge_pend (v : Word) (s : State) : (acknowledge v s).pend = s.pend := rfl
@[simp] theorem acknowledge_rstn (v : Word) (s : State) : (acknowledge v s).rstn = s.rstn := rfl
@[simp] theorem acknowledge_inputs (v : Word) (s : State) : (acknowledge v s).inputs = s.inputs := rfl
@[simp] theorem acknowledge_replies (v : Word) (s : State) : (acknowledge v s).replies = s.replies := rfl

@[simp] theorem resetUnit_f (s : State) : (resetUnit s).f = State.reset.f := rfl
@[simp] theorem resetUnit_data (s : State) : (resetUnit s).data = State.reset.data := rfl
@[simp] theorem resetUnit_h (s : State) : (resetUnit s).h = State.reset.h := rfl
@[simp] theorem resetUnit_w (s : State) : (resetUnit s).w = State.reset.w := rfl
@[simp] theorem resetUnit_mlen (s : State) : (resetUnit s).mlen = State.reset.mlen := rfl
@[simp] theorem resetUnit_ie (s : State) : (resetUnit s).ie = State.reset.ie := rfl
@[simp] theorem resetUnit_busy (s : State) : (resetUnit s).busy = State.reset.busy := rfl
@[simp] theorem resetUnit_done (s : State) : (resetUnit s).done = State.reset.done := rfl
@[simp] theorem resetUnit_err (s : State) : (resetUnit s).err = State.reset.err := rfl
@[simp] theorem resetUnit_errcode (s : State) : (resetUnit s).errcode = State.reset.errcode := rfl
@[simp] theorem resetUnit_lastcmd (s : State) : (resetUnit s).lastcmd = State.reset.lastcmd := rfl
@[simp] theorem resetUnit_pend (s : State) : (resetUnit s).pend = State.reset.pend := rfl
@[simp] theorem resetUnit_rstn (s : State) : (resetUnit s).rstn = s.rstn := rfl
@[simp] theorem resetUnit_inputs (s : State) : (resetUnit s).inputs = s.inputs := rfl
@[simp] theorem resetUnit_replies (s : State) : (resetUnit s).replies = s.replies := rfl

@[simp] theorem holdReset_f (s : State) : (holdReset s).f = State.reset.f := rfl
@[simp] theorem holdReset_data (s : State) : (holdReset s).data = State.reset.data := rfl
@[simp] theorem holdReset_h (s : State) : (holdReset s).h = State.reset.h := rfl
@[simp] theorem holdReset_w (s : State) : (holdReset s).w = State.reset.w := rfl
@[simp] theorem holdReset_mlen (s : State) : (holdReset s).mlen = State.reset.mlen := rfl
@[simp] theorem holdReset_ie (s : State) : (holdReset s).ie = State.reset.ie := rfl
@[simp] theorem holdReset_busy (s : State) : (holdReset s).busy = State.reset.busy := rfl
@[simp] theorem holdReset_done (s : State) : (holdReset s).done = State.reset.done := rfl
@[simp] theorem holdReset_err (s : State) : (holdReset s).err = State.reset.err := rfl
@[simp] theorem holdReset_errcode (s : State) : (holdReset s).errcode = State.reset.errcode := rfl
@[simp] theorem holdReset_lastcmd (s : State) : (holdReset s).lastcmd = State.reset.lastcmd := rfl
@[simp] theorem holdReset_pend (s : State) : (holdReset s).pend = State.reset.pend := rfl
@[simp] theorem holdReset_rstn (s : State) : (holdReset s).rstn = false := rfl
@[simp] theorem holdReset_inputs (s : State) : (holdReset s).inputs = s.inputs := rfl
@[simp] theorem holdReset_replies (s : State) : (holdReset s).replies = s.replies := rfl

@[simp] theorem releaseReset_f (s : State) : (releaseReset s).f = s.f := rfl
@[simp] theorem releaseReset_data (s : State) : (releaseReset s).data = s.data := rfl
@[simp] theorem releaseReset_h (s : State) : (releaseReset s).h = s.h := rfl
@[simp] theorem releaseReset_w (s : State) : (releaseReset s).w = s.w := rfl
@[simp] theorem releaseReset_mlen (s : State) : (releaseReset s).mlen = s.mlen := rfl
@[simp] theorem releaseReset_ie (s : State) : (releaseReset s).ie = s.ie := rfl
@[simp] theorem releaseReset_busy (s : State) : (releaseReset s).busy = s.busy := rfl
@[simp] theorem releaseReset_done (s : State) : (releaseReset s).done = s.done := rfl
@[simp] theorem releaseReset_err (s : State) : (releaseReset s).err = s.err := rfl
@[simp] theorem releaseReset_errcode (s : State) : (releaseReset s).errcode = s.errcode := rfl
@[simp] theorem releaseReset_lastcmd (s : State) : (releaseReset s).lastcmd = s.lastcmd := rfl
@[simp] theorem releaseReset_pend (s : State) : (releaseReset s).pend = s.pend := rfl
@[simp] theorem releaseReset_rstn (s : State) : (releaseReset s).rstn = true := rfl
@[simp] theorem releaseReset_inputs (s : State) : (releaseReset s).inputs = s.inputs := rfl
@[simp] theorem releaseReset_replies (s : State) : (releaseReset s).replies = s.replies := rfl

@[simp] theorem reply_f (v : Word) (s : State) : (reply v s).f = s.f := rfl
@[simp] theorem reply_data (v : Word) (s : State) : (reply v s).data = s.data := rfl
@[simp] theorem reply_h (v : Word) (s : State) : (reply v s).h = s.h := rfl
@[simp] theorem reply_w (v : Word) (s : State) : (reply v s).w = s.w := rfl
@[simp] theorem reply_mlen (v : Word) (s : State) : (reply v s).mlen = s.mlen := rfl
@[simp] theorem reply_ie (v : Word) (s : State) : (reply v s).ie = s.ie := rfl
@[simp] theorem reply_busy (v : Word) (s : State) : (reply v s).busy = s.busy := rfl
@[simp] theorem reply_done (v : Word) (s : State) : (reply v s).done = s.done := rfl
@[simp] theorem reply_err (v : Word) (s : State) : (reply v s).err = s.err := rfl
@[simp] theorem reply_errcode (v : Word) (s : State) : (reply v s).errcode = s.errcode := rfl
@[simp] theorem reply_lastcmd (v : Word) (s : State) : (reply v s).lastcmd = s.lastcmd := rfl
@[simp] theorem reply_pend (v : Word) (s : State) : (reply v s).pend = s.pend := rfl
@[simp] theorem reply_rstn (v : Word) (s : State) : (reply v s).rstn = s.rstn := rfl
@[simp] theorem reply_inputs (v : Word) (s : State) : (reply v s).inputs = s.inputs := rfl
@[simp] theorem reply_replies (v : Word) (s : State) : (reply v s).replies = v :: s.replies := rfl

@[simp] theorem setInputs_f (rest : List Input) (s : State) : (setInputs rest s).f = s.f := rfl
@[simp] theorem setInputs_data (rest : List Input) (s : State) : (setInputs rest s).data = s.data := rfl
@[simp] theorem setInputs_h (rest : List Input) (s : State) : (setInputs rest s).h = s.h := rfl
@[simp] theorem setInputs_w (rest : List Input) (s : State) : (setInputs rest s).w = s.w := rfl
@[simp] theorem setInputs_mlen (rest : List Input) (s : State) : (setInputs rest s).mlen = s.mlen := rfl
@[simp] theorem setInputs_ie (rest : List Input) (s : State) : (setInputs rest s).ie = s.ie := rfl
@[simp] theorem setInputs_busy (rest : List Input) (s : State) : (setInputs rest s).busy = s.busy := rfl
@[simp] theorem setInputs_done (rest : List Input) (s : State) : (setInputs rest s).done = s.done := rfl
@[simp] theorem setInputs_err (rest : List Input) (s : State) : (setInputs rest s).err = s.err := rfl
@[simp] theorem setInputs_errcode (rest : List Input) (s : State) : (setInputs rest s).errcode = s.errcode := rfl
@[simp] theorem setInputs_lastcmd (rest : List Input) (s : State) : (setInputs rest s).lastcmd = s.lastcmd := rfl
@[simp] theorem setInputs_pend (rest : List Input) (s : State) : (setInputs rest s).pend = s.pend := rfl
@[simp] theorem setInputs_rstn (rest : List Input) (s : State) : (setInputs rest s).rstn = s.rstn := rfl
@[simp] theorem setInputs_inputs (rest : List Input) (s : State) : (setInputs rest s).inputs = rest := rfl
@[simp] theorem setInputs_replies (rest : List Input) (s : State) : (setInputs rest s).replies = s.replies := rfl

/-! Recording an error writes ERR and ERRCODE only (rule R279), and so does rejecting, beside BUSY and DONE (rule R276). -/

@[simp] theorem recordError_f (e : ErrCode) (s : State) : (recordError e s).f = s.f := by
  unfold recordError; split <;> rfl
@[simp] theorem recordError_data (e : ErrCode) (s : State) : (recordError e s).data = s.data := by
  unfold recordError; split <;> rfl
@[simp] theorem recordError_h (e : ErrCode) (s : State) : (recordError e s).h = s.h := by
  unfold recordError; split <;> rfl
@[simp] theorem recordError_w (e : ErrCode) (s : State) : (recordError e s).w = s.w := by
  unfold recordError; split <;> rfl
@[simp] theorem recordError_mlen (e : ErrCode) (s : State) : (recordError e s).mlen = s.mlen := by
  unfold recordError; split <;> rfl
@[simp] theorem recordError_ie (e : ErrCode) (s : State) : (recordError e s).ie = s.ie := by
  unfold recordError; split <;> rfl
@[simp] theorem recordError_busy (e : ErrCode) (s : State) : (recordError e s).busy = s.busy := by
  unfold recordError; split <;> rfl
@[simp] theorem recordError_done (e : ErrCode) (s : State) : (recordError e s).done = s.done := by
  unfold recordError; split <;> rfl
@[simp] theorem recordError_lastcmd (e : ErrCode) (s : State) : (recordError e s).lastcmd = s.lastcmd := by
  unfold recordError; split <;> rfl
@[simp] theorem recordError_pend (e : ErrCode) (s : State) : (recordError e s).pend = s.pend := by
  unfold recordError; split <;> rfl
@[simp] theorem recordError_rstn (e : ErrCode) (s : State) : (recordError e s).rstn = s.rstn := by
  unfold recordError; split <;> rfl
@[simp] theorem recordError_inputs (e : ErrCode) (s : State) : (recordError e s).inputs = s.inputs := by
  unfold recordError; split <;> rfl
@[simp] theorem recordError_replies (e : ErrCode) (s : State) : (recordError e s).replies = s.replies := by
  unfold recordError; split <;> rfl
@[simp] theorem recordError_err (e : ErrCode) (s : State) : (recordError e s).err = true := by
  unfold recordError; split
  · assumption
  · rfl
@[simp] theorem recordError_errcode (e : ErrCode) (s : State) :
    (recordError e s).errcode = if s.err then s.errcode else e.code := by
  unfold recordError; split <;> rfl

@[simp] theorem reject_f (e : ErrCode) (s : State) : (reject e s).f = s.f := by simp [reject]
@[simp] theorem reject_data (e : ErrCode) (s : State) : (reject e s).data = s.data := by simp [reject]
@[simp] theorem reject_h (e : ErrCode) (s : State) : (reject e s).h = s.h := by simp [reject]
@[simp] theorem reject_w (e : ErrCode) (s : State) : (reject e s).w = s.w := by simp [reject]
@[simp] theorem reject_mlen (e : ErrCode) (s : State) : (reject e s).mlen = s.mlen := by simp [reject]
@[simp] theorem reject_ie (e : ErrCode) (s : State) : (reject e s).ie = s.ie := by simp [reject]
@[simp] theorem reject_busy (e : ErrCode) (s : State) : (reject e s).busy = false := rfl
@[simp] theorem reject_done (e : ErrCode) (s : State) : (reject e s).done = true := rfl
@[simp] theorem reject_err (e : ErrCode) (s : State) : (reject e s).err = true := by simp [reject]
@[simp] theorem reject_errcode (e : ErrCode) (s : State) : (reject e s).errcode = if s.err then s.errcode else e.code := by simp [reject]
@[simp] theorem reject_lastcmd (e : ErrCode) (s : State) : (reject e s).lastcmd = s.lastcmd := by simp [reject]
@[simp] theorem reject_pend (e : ErrCode) (s : State) : (reject e s).pend = s.pend := by simp [reject]
@[simp] theorem reject_rstn (e : ErrCode) (s : State) : (reject e s).rstn = s.rstn := by simp [reject]
@[simp] theorem reject_inputs (e : ErrCode) (s : State) : (reject e s).inputs = s.inputs := by simp [reject]
@[simp] theorem reject_replies (e : ErrCode) (s : State) : (reject e s).replies = s.replies := by simp [reject]

/-! Recording an error as one record, the form the statements use. -/

theorem recordError_eq (e : ErrCode) (s : State) :
    recordError e s = { s with err := true, errcode := if s.err then s.errcode else e.code } := by
  unfold recordError
  cases h : s.err
  · rfl
  · simp [← h]

theorem reject_eq (e : ErrCode) (s : State) :
    reject e s =
      { s with err := true, errcode := if s.err then s.errcode else e.code, busy := false, done := true } := by
  simp [reject, recordError_eq, complete]

/-! Reading back a field register. -/

@[simp] theorem readF_writeF_self (i : Reg) (r : FReg) (s : State) : readF (writeF i r s) i = r := by
  simp [readF, writeF]

theorem readF_writeF_ne (i j : Reg) (r : FReg) (s : State) (h : j ≠ i) : readF (writeF i r s) j = readF s j := by
  simp only [readF, writeF]
  exact Vector.getElem_set_ne _ _ (fun e => h (Fin.ext e.symm))

@[simp] theorem readF_complete (s : State) (i : Reg) : readF (complete s) i = readF s i := rfl
@[simp] theorem readF_reject (e : ErrCode) (s : State) (i : Reg) : readF (reject e s) i = readF s i := by
  simp [readF]

end Sys2Proof.Machine
end

