-- ==== Sys2Proof/Laws/Ops.lean ====
section
/-! SUPPORT. Once each, all that a shared operation, a command's meaning and a step can do; later proofs cite these
instead of unfolding the operations. -/

namespace Sys2Proof.Machine

open Sys2Proof.Config

/-- A sum of two depth-0 registers has the tag 1 (rule R190). -/
theorem depthTag_sumDepth_zero {a b : FReg} (ha : a.depth = 0) (hb : b.depth = 0) :
    depthTag (sumDepth a b) = some 1 := by
  simp [sumDepth, ha, hb, depthTag]

/-- A sum with an operand of depth 1 has no tag (rule R190). -/
theorem depthTag_sumDepth_one {a b : FReg} (h : a.depth = 1 ∨ b.depth = 1) : depthTag (sumDepth a b) = none := by
  have : ¬ sumDepth a b < dMax + 1 := by
    rcases h with h | h <;> simp [sumDepth, h, dMax]
  simp [depthTag, this]

/-- A depth tag is 0 or 1 (rule R40). -/
theorem depth_eq (d : Depth) : d = 0 ∨ d = 1 := by
  revert d; decide

/-- FADD and FSUB either write `F[rd]` at depth 1, both operands having depth 0, or are rejected with E_DEPTH. -/
theorem addSub_cases (op : Fp → Fp → Fp) (rd rs1 rs2 : Reg) (s : State) :
    ((readF s rs1).depth = 0 ∧ (readF s rs2).depth = 0 ∧
        addSub op rd rs1 rs2 s = complete (writeF rd ⟨op (readF s rs1).value (readF s rs2).value, 1⟩ s)) ∨
      (((readF s rs1).depth = 1 ∨ (readF s rs2).depth = 1) ∧ addSub op rd rs1 rs2 s = reject .depth s) := by
  by_cases h : (readF s rs1).depth = 1 ∨ (readF s rs2).depth = 1
  · exact .inr ⟨h, by simp [addSub, depthTag_sumDepth_one h]⟩
  · have h1 := (depth_eq (readF s rs1).depth).resolve_right (fun e => h (.inl e))
    have h2 := (depth_eq (readF s rs2).depth).resolve_right (fun e => h (.inr e))
    exact .inl ⟨h1, h2, by simp [addSub, depthTag_sumDepth_zero h1 h2]⟩

/-- What a command writes, whichever it is: the field register its RD names, DATA, H and MLEN, MLEN and H at once, nothing, or
the rejection of FADD and FSUB; then the completion. -/
theorem exec_cases (i : Instr) (s : State) :
    (∃ rd r, i.fieldDest = some rd ∧ exec i s = .next (complete (writeF rd r s))) ∨
      (∃ d, exec i s = .next (complete { s with data := d })) ∨
      (∃ h m, exec i s = .next (complete { s with h := h, mlen := m })) ∨
      exec i s = .next (complete s) ∨ exec i s = .next (reject .depth s) := by
  cases i with
  | nop => exact .inr (.inr (.inr (.inl rfl)))
  | fzero rd => exact .inl ⟨rd, _, rfl, rfl⟩
  | fone rd => exact .inl ⟨rd, _, rfl, rfl⟩
  | fload rd => exact .inl ⟨rd, _, rfl, rfl⟩
  | fstore rs1 => exact .inr (.inl ⟨_, rfl⟩)
  | fadd rd rs1 rs2 =>
    rcases addSub_cases fpAdd rd rs1 rs2 s with ⟨-, -, h⟩ | ⟨-, h⟩
    · exact .inl ⟨rd, _, rfl, congrArg _ h⟩
    · exact .inr (.inr (.inr (.inr (congrArg _ h))))
  | fsub rd rs1 rs2 =>
    rcases addSub_cases fpSub rd rs1 rs2 s with ⟨-, -, h⟩ | ⟨-, h⟩
    · exact .inl ⟨rd, _, rfl, congrArg _ h⟩
    · exact .inr (.inr (.inr (.inr (congrArg _ h))))
  | fmul rd rs1 rs2 => exact .inl ⟨rd, _, rfl, rfl⟩
  | fsqr rd rs1 => exact .inl ⟨rd, _, rfl, rfl⟩
  | finv rd rs1 => exact .inl ⟨rd, _, rfl, rfl⟩
  | sinit => exact .inr (.inr (.inl ⟨_, _, rfl⟩))
  | scomp => exact .inr (.inr (.inl ⟨_, _, rfl⟩))

/-- Every command of this unit completes. -/
theorem exec_next (i : Instr) (s : State) : ∃ t, exec i s = .next t := by
  rcases exec_cases i s with ⟨_, _, -, h⟩ | ⟨_, h⟩ | ⟨_, _, h⟩ | h | h <;> exact ⟨_, h⟩

/-- The completion of any word: the command it decodes to, or its rejection (rule R271). -/
theorem completeWord_cases (v : Word) (s : State) :
    (∃ i, decode v = .ok i ∧ completeWord v s = exec i s) ∨
      (∃ e, decode v = .error e ∧ completeWord v s = .next (reject (illegalCode e) s)) := by
  unfold completeWord
  cases h : decode v with
  | ok i => exact .inl ⟨i, rfl, rfl⟩
  | error e => exact .inr ⟨e, rfl, rfl⟩

theorem completeWord_next (v : Word) (s : State) : ∃ t, completeWord v s = .next t := by
  rcases completeWord_cases v s with ⟨i, -, h⟩ | ⟨e, -, h⟩
  · obtain ⟨t, ht⟩ := exec_next i s
    exact ⟨t, h.trans ht⟩
  · exact ⟨_, h⟩

theorem engineTurn_pending {s : State} {v : Word} (h : pendingCommand s = some v) :
    engineTurn s = completeWord v s := by
  simp [engineTurn, h]

theorem engineTurn_idle {s : State} (h : pendingCommand s = none) : engineTurn s = .next s := by
  simp [engineTurn, h]

theorem pendingCommand_eq_some {s : State} {v : Word} :
    pendingCommand s = some v ↔ s.rstn = true ∧ s.busy = true ∧ v = s.pend := by
  unfold pendingCommand
  cases s.rstn <;> cases s.busy <;> simp [eq_comm]

theorem pendingCommand_eq_none {s : State} : pendingCommand s = none ↔ s.rstn = false ∨ s.busy = false := by
  unfold pendingCommand
  cases s.rstn <;> cases s.busy <;> simp

@[simp] theorem pendingCommand_setInputs (rest : List Input) (s : State) :
    pendingCommand (setInputs rest s) = pendingCommand s := rfl

/-- A step takes the next event: it does what that event does to the unit, and the engine's turn, which also comes
when no event is left, completes the pending command or does nothing. -/
theorem step_cases (s : State) :
    (pendingCommand s = none ∧ (s.inputs = [] ∨ s.inputs.head? = some .engine) ∧
        step s = .next (setInputs s.inputs.tail s)) ∨
      (∃ v, pendingCommand s = some v ∧ (s.inputs = [] ∨ s.inputs.head? = some .engine) ∧
        step s = completeWord v (setInputs s.inputs.tail s)) ∨
      (∃ off size, s.inputs.head? = some (.read off size) ∧
        step s = .next (hostRead off size (setInputs s.inputs.tail s))) ∨
      (∃ off size v, s.inputs.head? = some (.write off size v) ∧
        step s = .next (hostWrite off size v (setInputs s.inputs.tail s))) ∨
      (s.inputs.head? = some .resetLow ∧ step s = .next (holdReset (setInputs s.inputs.tail s))) ∨
      (s.inputs.head? = some .resetHigh ∧ step s = .next (releaseReset (setInputs s.inputs.tail s))) := by
  have engine (turn : s.inputs = [] ∨ s.inputs.head? = some .engine)
      (h : step s = engineTurn (setInputs s.inputs.tail s)) :
      (pendingCommand s = none ∧ (s.inputs = [] ∨ s.inputs.head? = some .engine) ∧
          step s = .next (setInputs s.inputs.tail s)) ∨
        ∃ v, pendingCommand s = some v ∧ (s.inputs = [] ∨ s.inputs.head? = some .engine) ∧
          step s = completeWord v (setInputs s.inputs.tail s) := by
    cases hp : pendingCommand s with
    | none => exact .inl ⟨rfl, turn, h.trans (engineTurn_idle hp)⟩
    | some v => exact .inr ⟨v, rfl, turn, h.trans (engineTurn_pending hp)⟩
  cases hi : s.inputs with
  | nil =>
    have hs : setInputs [] s = s := by rw [← hi]; rfl
    rcases engine (.inl hi) (by rw [hi, List.tail_nil, hs]; simp only [step, hi]) with h | h <;> rw [hi] at h
    · exact .inl h
    · exact .inr (.inl h)
  | cons x rest =>
    cases x with
    | read off size => exact .inr (.inr (.inl ⟨off, size, rfl, by simp [step, hi]⟩))
    | write off size v => exact .inr (.inr (.inr (.inl ⟨off, size, v, rfl, by simp [step, hi]⟩)))
    | engine =>
      rcases engine (.inr (by simp [hi])) (by simp [step, hi]) with h | h <;> rw [hi] at h
      · exact .inl h
      · exact .inr (.inl h)
    | resetLow => exact .inr (.inr (.inr (.inr (.inl ⟨rfl, by simp [step, hi]⟩))))
    | resetHigh => exact .inr (.inr (.inr (.inr (.inr ⟨rfl, by simp [step, hi]⟩))))

/-- What a write to a window register does: one of the window's seven effects. -/
theorem writeReg_cases (r : WinReg) (v : Word) (s : State) :
    writeReg r v s = s ∨ writeReg r v s = resetUnit s ∨ (∃ b, writeReg r v s = { s with ie := b }) ∨
      writeReg r v s = acknowledge v s ∨ (s.busy = true ∧ writeReg r v s = recordError .busy s) ∨
      (s.busy = false ∧ writeReg r v s = accept v s) ∨
      (s.busy = false ∧ ∃ d h w m, writeReg r v s = { s with data := d, h := h, w := w, mlen := m }) := by
  have operand (t : State) (ht : ∃ d h w m, t = { s with data := d, h := h, w := w, mlen := m }) :
      (s.busy = true ∧ writeOperand s t = recordError .busy s) ∨
        (s.busy = false ∧ ∃ d h w m, writeOperand s t = { s with data := d, h := h, w := w, mlen := m }) := by
    by_cases hb : s.busy = true
    · exact .inl ⟨hb, by simp [writeOperand, hb]⟩
    · exact .inr ⟨by simpa using hb, by simpa [writeOperand, hb] using ht⟩
  have slice (t : State) (ht : ∃ d h w m, t = { s with data := d, h := h, w := w, mlen := m })
      (e : writeReg r v s = writeOperand s t) :
      writeReg r v s = s ∨ writeReg r v s = resetUnit s ∨ (∃ b, writeReg r v s = { s with ie := b }) ∨
        writeReg r v s = acknowledge v s ∨ (s.busy = true ∧ writeReg r v s = recordError .busy s) ∨
        (s.busy = false ∧ writeReg r v s = accept v s) ∨
        (s.busy = false ∧ ∃ d h w m, writeReg r v s = { s with data := d, h := h, w := w, mlen := m }) := by
    rw [e]
    rcases operand t ht with h | h
    · exact .inr (.inr (.inr (.inr (.inl h))))
    · exact .inr (.inr (.inr (.inr (.inr (.inr h)))))
  cases r with
  | ctrl =>
    simp only [writeReg, writeCtrl]
    split
    · exact .inr (.inl rfl)
    · exact .inr (.inr (.inl ⟨_, rfl⟩))
  | status => exact .inr (.inr (.inr (.inl rfl)))
  | cmd =>
    cases hb : s.busy with
    | true => exact .inr (.inr (.inr (.inr (.inl ⟨rfl, by simp [writeReg, hb]⟩))))
    | false => exact .inr (.inr (.inr (.inr (.inr (.inl ⟨rfl, by simp [writeReg, hb]⟩)))))
  | id => exact .inl rfl
  | fdepth => exact .inl rfl
  | reserved => exact .inl rfl
  | data k => exact slice _ ⟨_, _, _, _, rfl⟩ rfl
  | hLo i => exact slice _ ⟨_, _, _, _, rfl⟩ rfl
  | hHi i => exact slice _ ⟨_, _, _, _, rfl⟩ rfl
  | wLo t => exact slice _ ⟨_, _, _, _, rfl⟩ rfl
  | wHi t => exact slice _ ⟨_, _, _, _, rfl⟩ rfl
  | mlen m => exact slice _ ⟨_, _, _, _, rfl⟩ rfl

end Sys2Proof.Machine
end

