-- ==== Sys2Proof/Laws/PerInstr.lean ====
section
/-! SUPPORT. Facts about every instruction as syntax, one lemma per constructor: its command is well-formed by the
checks of Sys2Proof/WellFormed.lean. -/

namespace Sys2Proof.Laws.CommandWellFormed

/-- The command an instruction stands for passes every check (rules R134, R135). -/
def Statement (i : Instr) : Prop := i.command.wellFormed = true

theorem nop : Statement .nop := rfl
theorem fzero (rd : Reg) : Statement (.fzero rd) := rfl
theorem fone (rd : Reg) : Statement (.fone rd) := rfl
theorem fload (rd : Reg) : Statement (.fload rd) := rfl
theorem fstore (rs1 : Reg) : Statement (.fstore rs1) := rfl
theorem fadd (rd rs1 rs2 : Reg) : Statement (.fadd rd rs1 rs2) := rfl
theorem fsub (rd rs1 rs2 : Reg) : Statement (.fsub rd rs1 rs2) := rfl
theorem fmul (rd rs1 rs2 : Reg) : Statement (.fmul rd rs1 rs2) := rfl
theorem fsqr (rd rs1 : Reg) : Statement (.fsqr rd rs1) := rfl
theorem finv (rd rs1 : Reg) : Statement (.finv rd rs1) := rfl
theorem sinit : Statement .sinit := rfl
theorem scomp : Statement .scomp := rfl

end Sys2Proof.Laws.CommandWellFormed
end

