-- ==== Sys2Proof/Laws/Prime.lean ====
section
/-! SUPPORT. p = 2^255 − 19 is prime (rule R3), by Pratt certificates checked with `powMod`. -/

set_option Elab.async false

namespace Sys2Proof.Machine

open Sys2Proof.Config

/-- A certificate of primality: `a` has order `n − 1` modulo `n`, shown from the prime factors of `n − 1`. -/
theorem prime_of_certificate (n a bits : Nat) (factors : List Nat) (hn : 1 < n) (hb : n - 1 < 2 ^ bits)
    (hf : ∀ q ∈ factors, Nat.Prime q) (hprod : factors.prod = n - 1)
    (hone : powMod n bits a (n - 1) = 1) (hne : ∀ q ∈ factors, powMod n bits a ((n - 1) / q) ≠ 1) :
    Nat.Prime n := by
  have cast_pow (e : Nat) (he : e < 2 ^ bits) : ((powMod n bits a e : Nat) : ZMod n) = (a : ZMod n) ^ e := by
    rw [powMod_eq _ _ _ _ he, ZMod.natCast_mod, Nat.cast_pow]
  refine lucas_primality n (a : ZMod n) ?_ fun q hq hdvd => ?_
  · rw [← cast_pow _ hb, hone, Nat.cast_one]
  · have hmem : q ∈ factors := by
      obtain ⟨r, hr, hqr⟩ := (Prime.dvd_prod_iff hq.prime).mp (hprod ▸ hdvd)
      exact ((Nat.prime_dvd_prime_iff_eq hq (hf r hr)).mp hqr) ▸ hr
    have he : (n - 1) / q < 2 ^ bits := lt_of_le_of_lt (Nat.div_le_self _ _) hb
    intro h
    rw [← cast_pow _ he] at h
    have hlt : powMod n bits a ((n - 1) / q) < n := by
      rw [powMod_eq _ _ _ _ he]; exact Nat.mod_lt _ (by omega)
    refine hne q hmem ?_
    have h1 : ((powMod n bits a ((n - 1) / q) : Nat) : ZMod n) = ((1 : Nat) : ZMod n) := by rw [h, Nat.cast_one]
    rw [ZMod.natCast_eq_natCast_iff'] at h1
    rwa [Nat.mod_eq_of_lt hlt, Nat.mod_eq_of_lt hn] at h1

theorem prime_1923133 : Nat.Prime 1923133 := by
  refine prime_of_certificate _ 2 21 [2, 2, 3, 43, 3727] (by norm_num) (by norm_num) ?_ (by norm_num) (by decide +kernel) (by decide +kernel)
  intro q hq
  fin_cases hq
  · norm_num
  · norm_num
  · norm_num
  · norm_num
  · norm_num

theorem prime_8574133 : Nat.Prime 8574133 := by
  refine prime_of_certificate _ 2 24 [2, 2, 3, 7, 103, 991] (by norm_num) (by norm_num) ?_ (by norm_num) (by decide +kernel) (by decide +kernel)
  intro q hq
  fin_cases hq
  · norm_num
  · norm_num
  · norm_num
  · norm_num
  · norm_num
  · norm_num

theorem prime_2773320623 : Nat.Prime 2773320623 := by
  refine prime_of_certificate _ 5 32 [2, 2437, 569003] (by norm_num) (by norm_num) ?_ (by norm_num) (by decide +kernel) (by decide +kernel)
  intro q hq
  fin_cases hq
  · norm_num
  · norm_num
  · norm_num

theorem prime_72106336199 : Nat.Prime 72106336199 := by
  refine prime_of_certificate _ 7 37 [2, 13, 2773320623] (by norm_num) (by norm_num) ?_ (by norm_num) (by decide +kernel) (by decide +kernel)
  intro q hq
  fin_cases hq
  · norm_num
  · norm_num
  · exact prime_2773320623

theorem prime_1919519569386763 : Nat.Prime 1919519569386763 := by
  refine prime_of_certificate _ 2 51 [2, 3, 7, 19, 47, 47, 127, 8574133] (by norm_num) (by norm_num) ?_ (by norm_num) (by decide +kernel) (by decide +kernel)
  intro q hq
  fin_cases hq
  · norm_num
  · norm_num
  · norm_num
  · norm_num
  · norm_num
  · norm_num
  · norm_num
  · exact prime_8574133

theorem prime_31757755568855353 : Nat.Prime 31757755568855353 := by
  refine prime_of_certificate _ 10 55 [2, 2, 2, 3, 31, 107, 223, 4153, 430751] (by norm_num) (by norm_num) ?_ (by norm_num) (by decide +kernel) (by decide +kernel)
  intro q hq
  fin_cases hq
  · norm_num
  · norm_num
  · norm_num
  · norm_num
  · norm_num
  · norm_num
  · norm_num
  · norm_num
  · norm_num

theorem prime_75445702479781427272750846543864801 : Nat.Prime 75445702479781427272750846543864801 := by
  refine prime_of_certificate _ 7 116 [2, 2, 2, 2, 2, 3, 3, 5, 5, 75707, 72106336199, 1919519569386763] (by norm_num) (by norm_num) ?_ (by norm_num) (by decide +kernel) (by decide +kernel)
  intro q hq
  fin_cases hq
  · norm_num
  · norm_num
  · norm_num
  · norm_num
  · norm_num
  · norm_num
  · norm_num
  · norm_num
  · norm_num
  · norm_num
  · exact prime_72106336199
  · exact prime_1919519569386763

theorem prime_74058212732561358302231226437062788676166966415465897661863160754340907 : Nat.Prime 74058212732561358302231226437062788676166966415465897661863160754340907 := by
  refine prime_of_certificate _ 2 236 [2, 3, 353, 57467, 132049, 1923133, 31757755568855353, 75445702479781427272750846543864801] (by norm_num) (by norm_num) ?_ (by norm_num) (by decide +kernel) (by decide +kernel)
  intro q hq
  fin_cases hq
  · norm_num
  · norm_num
  · norm_num
  · norm_num
  · norm_num
  · exact prime_1923133
  · exact prime_31757755568855353
  · exact prime_75445702479781427272750846543864801

theorem P_prime : Nat.Prime P := by
  rw [P_eq]
  refine prime_of_certificate _ 2 255 [2, 2, 3, 65147, 74058212732561358302231226437062788676166966415465897661863160754340907] (by norm_num) (by norm_num) ?_ (by norm_num) (by decide +kernel) (by decide +kernel)
  intro q hq
  fin_cases hq
  · norm_num
  · norm_num
  · norm_num
  · norm_num
  · exact prime_74058212732561358302231226437062788676166966415465897661863160754340907

end Sys2Proof.Machine
end

