-- ==== Sys2Proof/Laws/Window.lean ====
section
/-! SUPPORT. The register map as a relation between registers and offsets, and when an access is well-formed
(rules R82, R86). -/

namespace Sys2Proof.Machine

/-- A well-formed access is four bytes wide at a multiple of four (rule R82). -/
theorem wellFormedAccess_iff {off : Offset} {size : Size} :
    wellFormedAccess off size = true ↔ size = .four ∧ off.toNat % 4 = 0 := by
  cases size <;> simp [wellFormedAccess]

/-- The offset a register stands at (rule R86); a reserved offset is one of two ranges (rule R84). -/
def StandsAt (n : Nat) : WinReg → Prop
  | .ctrl => n = 0x000
  | .status => n = 0x004
  | .cmd => n = 0x008
  | .id => n = 0x00C
  | .fdepth => n = 0x010
  | .data k => n = 0x020 + 4 * k.val
  | .hLo i => n = 0x040 + 8 * i.val
  | .hHi i => n = 0x044 + 8 * i.val
  | .wLo t => n = 0x080 + 8 * t.val
  | .wHi t => n = 0x084 + 8 * t.val
  | .mlen m => n = 0x100 + 4 * m.val
  | .reserved => 0x014 ≤ n ∧ n < 0x020 ∨ 0x110 ≤ n

/-- The register read or written at an aligned offset stands there in the map of rule R86. -/
theorem regAt_standsAt (off : Offset) (aligned : off.toNat % 4 = 0) : StandsAt off.toNat (regAt off) := by
  dsimp only [regAt]
  split_ifs <;> simp only [StandsAt, Fin.ofNat] <;> omega

/-- No two registers stand at one offset: an aligned offset where `r` stands is `r`'s. -/
theorem regAt_eq_of_standsAt (off : Offset) (r : WinReg) (aligned : off.toNat % 4 = 0)
    (h : StandsAt off.toNat r) : regAt off = r := by
  have h' := regAt_standsAt off aligned
  generalize regAt off = q at h'
  cases q <;> cases r <;> simp only [StandsAt] at h h' <;>
    first | rfl | (exfalso; omega) | (congr 1; apply Fin.ext; omega)

end Sys2Proof.Machine
end

