-- ==== Sys2Proof/Tests/Slice0.lean ====
section
/-! SUPPORT. The model's own tests: ill-formed terms for each check, words of the spec's encodings, one-step vectors of
95_test_vectors.md, and for every statement with hypotheses a concrete input that meets them. -/

set_option Elab.async false

namespace Sys2Proof.Tests

open Sys2Proof Sys2Proof.Machine Sys2Proof.Config

/-! ### Helpers: small states -/

/-- The state a step goes on to. -/
def after (o : Host.Outcome State Fault Refusal) : Option State :=
  match o with
  | .next t => some t
  | .fault _ => none
  | .refused _ => none

/-- The reset state with value `v` and depth `d` in F[i]. -/
def withF (i : Reg) (v : Nat) (d : Depth) (s : State) : State := writeF i ⟨fpOfNat v, d⟩ s

/-- Completes command word `w` in one step and shows `g` of the state. -/
def complete1 {α : Type} (w : Nat) (s : State) (g : State → α) : Option α :=
  (after (step (s.withFetchWord 32 w))).map g

/-- One bus event, and `g` of the state after it. -/
def bus1 {α : Type} (x : Input) (s : State) (g : State → α) : Option α :=
  (after (step { s with inputs := [x] })).map g

/-- A unit with FINV running, an error already recorded. -/
def busyState : State := { State.reset with busy := true, pend := 0x00003409, lastcmd := 0x00003409 }

/-! ### WellFormed: one ill-formed command for each check -/

theorem test_undefined_opcode_refused : (Command.opcodeDefined ⟨0x0A, 0, 0, 0, 0⟩) = false := by decide
theorem test_last_undefined_opcode_refused : (Command.wellFormed ⟨0xFF, 0, 0, 0, 0⟩) = false := by decide
theorem test_reserved_bit_refused : (Command.reservedZero ⟨0x00, 0, 0, 0, 1⟩) = false := by decide
theorem test_unused_rd_refused : (Command.unusedRdZero ⟨0x04, 1, 0, 0, 0⟩) = false := by decide
theorem test_unused_rs1_refused : (Command.unusedRs1Zero ⟨0x03, 0, 1, 0, 0⟩) = false := by decide
theorem test_unused_rs2_refused : (Command.unusedRs2Zero ⟨0x08, 0, 0, 1, 0⟩) = false := by decide
theorem test_full_add_accepted : (Command.wellFormed ⟨0x05, 15, 15, 15, 0⟩) = true := by decide

/-! ### Decoding: words written out field by field, RSVD RS2 RS1 RD OPC (rules R131, R134) -/

theorem test_decode_nop : decode 0b000000000000_0000_0000_0000_00000000 = .ok .nop := by decide
theorem test_decode_fzero : decode 0b000000000000_0000_0000_0011_00000001 = .ok (.fzero 3) := by decide
theorem test_decode_fone : decode 0b000000000000_0000_0000_0001_00000010 = .ok (.fone 1) := by decide
theorem test_decode_fload : decode 0b000000000000_0000_0000_1111_00000011 = .ok (.fload 15) := by decide
theorem test_decode_fstore : decode 0b000000000000_0000_0101_0000_00000100 = .ok (.fstore 5) := by decide
theorem test_decode_fadd : decode 0b000000000000_0000_0001_0010_00000101 = .ok (.fadd 2 1 0) := by decide
theorem test_decode_fsub : decode 0b000000000000_0000_0001_0011_00000110 = .ok (.fsub 3 1 0) := by decide
theorem test_decode_fmul : decode 0b000000000000_0100_0010_0101_00000111 = .ok (.fmul 5 2 4) := by decide
theorem test_decode_fsqr : decode 0b000000000000_0000_1110_0010_00001000 = .ok (.fsqr 2 14) := by decide
theorem test_decode_finv : decode 0b000000000000_0000_0011_0100_00001001 = .ok (.finv 4 3) := by decide
theorem test_decode_sinit : decode 0b000000000000_0000_0000_0000_00010000 = .ok .sinit := by decide
theorem test_decode_scomp : decode 0b000000000000_0000_0000_0000_00010001 = .ok .scomp := by decide
theorem test_decode_first_gap : decode 0x0000000A = .error .opcode := by decide
theorem test_decode_opcode_before_reserved : decode 0xFFFFFFFF = .error .opcode := by decide
theorem test_decode_scomp_with_rd : decode 0x00000111 = .error .rsvd := by decide
theorem test_decodeTableWord_fstore : decodeTableWord 32 0x5004 = some (.fstore 5) := by decide
theorem test_assemble_fadd :
    assemble ['f', 'a', 'd', 'd', ' ', 'f', '2', ',', ' ', 'f', '1', ',', 'f', '1', '5', ' ', ';', 'x'] =
      some (.fadd 2 1 15) := by decide +kernel
theorem test_assemble_no_f16 : assemble ['f', 'o', 'n', 'e', ' ', 'f', '1', '6'] = none := by decide +kernel

/-! ### One-step vectors (95_test_vectors.md; the id stands in the name) -/

theorem test_V_IF_5_nop : complete1 0x00000000 .reset (fun t => (statusWord t, t.lastcmd, decide (t.f = State.reset.f))) =
    some (0x00000002, 0, true) := by decide +kernel
theorem test_V_FL_7_fzero : complete1 0x00000301 (withF 3 5 1 .reset) (fun t => (readF t 3, fdepthWord t, statusWord t)) =
    some (⟨fpZero, 0⟩, 0, 0x00000002) := by decide +kernel
theorem test_fone_f1 : complete1 0x00000102 (withF 1 9 1 .reset) (fun t => ((readF t 1).value.val, (readF t 1).depth)) =
    some (1, 0) := by decide +kernel
theorem test_V_FL_1_fload_drops_bit_255 :
    complete1 0x00000603 { State.reset with data := Vector.replicate 8 0xFFFFFFFF } (fun t => (readF t 6).value.val) =
      some 0x12 := by decide +kernel
theorem test_V_FL_3_fload_reduces :
    complete1 0x00000603
      { State.reset with data := #v[0xFFFFFFF2, 0xFFFFFFFF, 0xFFFFFFFF, 0xFFFFFFFF, 0xFFFFFFFF, 0xFFFFFFFF, 0xFFFFFFFF,
        0x7FFFFFFF] } (fun t => (readF t 6).value.val) = some 5 := by decide +kernel
theorem test_V_FL_5_fstore_p_minus_1 : complete1 0x00005004 (withF 5 (P - 1) 0 .reset) State.data =
    some #v[0xFFFFFFEC, 0xFFFFFFFF, 0xFFFFFFFF, 0xFFFFFFFF, 0xFFFFFFFF, 0xFFFFFFFF, 0xFFFFFFFF, 0x7FFFFFFF] := by
  decide +kernel
theorem test_V_FL_10_fstore_depth_1 : complete1 0x00002004 (withF 2 123 1 .reset)
      (fun t => (t.data, (readF t 2).depth, statusWord t)) =
    some (#v[0x7B, 0, 0, 0, 0, 0, 0, 0], 1, 0x00000002) := by decide +kernel
theorem test_V_AS_1_fadd_wraps : complete1 0x00021305 (withF 2 1 0 (withF 1 (P - 1) 0 .reset))
      (fun t => ((readF t 3).value.val, (readF t 3).depth, fdepthWord t, statusWord t)) =
    some (0, 1, 0x00000040, 0x00000002) := by decide +kernel
theorem test_V_AS_7_fadd_aliased : complete1 0x00011105 (withF 1 (P - 3) 0 .reset) (fun t => (readF t 1).value.val) =
    some (P - 6) := by decide +kernel
theorem test_V_AS_2_fsub_negative : complete1 0x00021306 (withF 2 1 0 .reset) (fun t => (readF t 3).value.val) =
    some (P - 1) := by decide +kernel
theorem test_V_AS_6_fsub_depth_error : complete1 0x00021306 (withF 2 9 1 (withF 1 5 0 .reset))
      (fun t => (statusWord t, (readF t 3).value.val, fdepthWord t)) =
    some (0x00000036, 0, 0x00000010) := by decide +kernel
theorem test_V_MS_3_fmul_folds : complete1 0x00021307 (withF 2 2 0 (withF 1 (2 ^ 254) 0 .reset))
    (fun t => (readF t 3).value.val) = some 0x13 := by decide +kernel
theorem test_V_MS_4_fmul_depth_1 : complete1 0x00021307 (withF 2 3 1 (withF 1 (P - 1) 1 .reset))
      (fun t => ((readF t 3).value.val, (readF t 3).depth, fdepthWord t)) =
    some (P - 3, 0, 0x00000014) := by decide +kernel
theorem test_V_MS_5_fsqr : complete1 0x00001108 (withF 1 (2 ^ 128) 0 .reset) (fun t => (readF t 1).value.val) =
    some 0x26 := by decide +kernel
theorem test_V_MS_6_fsqr_depth_1 : complete1 0x00001208 (withF 1 (P - 5) 1 .reset)
    (fun t => ((readF t 2).value.val, (readF t 2).depth)) = some (0x19, 0) := by decide +kernel
theorem test_V_FI_1_finv_zero : complete1 0x00003409 .reset (fun t => ((readF t 4).value.val, statusWord t)) =
    some (0, 0x00000002) := by decide +kernel
theorem test_V_FI_6_finv_19 : complete1 0x00003409 (withF 3 19 0 .reset) (fun t => (readF t 4).value.val) =
    some 0x2f286bca1af286bca1af286bca1af286bca1af286bca1af286bca1af286bca14 := by decide +kernel
theorem test_V_SH_0_sinit : complete1 0x00000010 { State.reset with mlen := 5 } (fun t => (t.h[0], t.h[7], t.mlen)) =
    some (0x6A09E667F3BCC908, 0x5BE0CD19137E2179, 0) := by decide +kernel
theorem test_V_SH_1_scomp_abc :
    complete1 0x00000011
      { State.reset with h := initialChaining, w := (Vector.replicate 16 0).set 0 0x6162638000000000 |>.set 15 0x18 }
      (fun t => (t.h, t.mlen)) =
    some (#v[0xDDAF35A193617ABA, 0xCC417349AE204131, 0x12E6FA4E89A97EA2, 0x0A9EEEE64B55D39A, 0x2192992A274FC1A8,
      0x36BA3C23A3FEEBBD, 0x454D4423643CE80E, 0x2A9AC94FA54CA49F], 1024) := by decide +kernel
theorem test_V_SH_5_mlen_wraps : complete1 0x00000011 { State.reset with mlen := BitVec.ofNat 128 (2 ^ 128 - 512) } State.mlen =
    some 512 := by decide +kernel
theorem test_V_ER_1_undefined_opcode : complete1 0x0000000A .reset (fun t => (statusWord t, t.lastcmd)) =
    some (0x00000016, 0x0000000A) := by decide +kernel
theorem test_V_ER_2_reserved_bit : complete1 0x00100000 .reset statusWord = some 0x00000026 := by decide +kernel
theorem test_V_ER_6_first_error_wins :
    complete1 0x00100000 { State.reset with err := true, errcode := 1 } statusWord = some 0x00000016 := by decide +kernel
theorem test_V_ER_4_busy_command_refused : bus1 (.write 0x008 .four 0x00000202)
      { busyState with pend := 0x00000102, lastcmd := 0x00000102 } (fun t => (statusWord t, t.pend, t.lastcmd)) =
    some (0x00000045, 0x00000102, 0x00000102) := by decide +kernel
theorem test_V_ER_5_byte_write : bus1 (.write 0x020 .one 0xAB) .reset (fun t => (statusWord t, t.data[0])) =
    some (0x00000050 ||| 4, 0) := by decide +kernel
theorem test_V_ER_5_unaligned_read : bus1 (.read 0x022 .four) .reset (fun t => (statusWord t, t.replies)) =
    some (0x00000054, [0]) := by decide +kernel
theorem test_V_ER_7_clear_err : bus1 (.write 0x004 .four 0x4)
    { State.reset with done := true, err := true, errcode := 1 } statusWord = some 0x00000002 := by decide +kernel
theorem test_V_ER_9_soft_reset : bus1 (.write 0x000 .four 0x3) (withF 1 5 1 busyState) (fun t => decide (t = State.reset)) =
    some true := by decide +kernel
theorem test_V_IF_3_w15_high : bus1 (.write 0x0FC .four 0x33333333) .reset (fun t => t.w[15]) =
    some 0x3333333300000000 := by decide +kernel
theorem test_V_IF_1_id : bus1 (.read 0x00C .four) .reset State.replies = some [0x25519001] := by decide +kernel
theorem test_read_in_reset_is_zero : bus1 (.read 0x00C .four) { State.reset with rstn := false } State.replies =
    some [0] := by decide +kernel
theorem test_field_modulus : P = 0x7fffffffffffffffffffffffffffffffffffffffffffffffffffffffffffffed := by decide

/-! ### The limb level on small inputs (rules R38, R196, R197, R201) -/

theorem test_limb_weights : (List.range 10).map limbWeight = [0, 26, 51, 77, 102, 128, 153, 179, 204, 230] := by decide
theorem test_weight_identity : ∀ i j : Fin 10,
    limbWeight i.val + limbWeight j.val = limbWeight (i.val + j.val) + (if i.val % 2 = 1 ∧ j.val % 2 = 1 then 1 else 0) := by
  decide
theorem test_limb_product : limbValue (limbMul (limbsOfNat (2 ^ 254)) (limbsOfNat 2)) = fpOfNat 0x13 := by decide +kernel
theorem test_chain_inverts_19 : (invertChain fpMul fpSqr (fpOfNat 19)).val =
    0x2f286bca1af286bca1af286bca1af286bca1af286bca1af286bca1af286bca14 := by decide +kernel
theorem test_padding_of_32_bytes : blockOf (padMessage (List.replicate 32 0)) =
    ((Vector.replicate 16 0).set 4 0x8000000000000000).set 15 0x100 := by decide +kernel

end Sys2Proof.Tests
end

