-- ==== Sys2Proof/Tests/Witnesses.lean ====
section
/-! SUPPORT. For every statement with hypotheses, concrete inputs that meet them, one conjunct a clause, at the ends of
the ranges a clause names. -/

set_option Elab.async false

namespace Sys2Proof.Tests

open Sys2Proof Sys2Proof.Machine Sys2Proof.Config

/-- The reset state with the events `xs` to come. -/
def withEvents (xs : List Input) (s : State) : State := { s with inputs := xs }

theorem witness_DecodeOfEncodeIsTheInstruction : (Instr.fadd 15 0 15).WellFormed := by decide

theorem witness_EncodeOfDecodeIsTheWord : decode 0x000FFF07 = .ok (.fmul 15 15 15) := by decide

/-- Each of the clauses: a command, an undefined opcode, a reserved bit, and nothing pending; with events left and with
none. -/
theorem witness_StepRunsThePendingCommand :
    (busyState.inputs = [] ∧ busyState.rstn = true ∧ busyState.busy = true ∧ decode busyState.pend = .ok (.finv 4 3)) ∧
    ((withEvents [.engine] busyState).inputs = .engine :: []) ∧
    (decode ({ busyState with pend := 0x12 }).pend = .error .opcode) ∧
    (decode ({ busyState with pend := 0x80000000 }).pend = .error .rsvd) ∧
    State.reset.busy = false ∧ (holdReset busyState).rstn = false := by decide +kernel

theorem witness_RejectedCommandsWriteStatusOnly :
    ((0x0A#32).toNat % 256 ∉ [0, 1, 2, 3, 4, 5, 6, 7, 8, 9, 16, 17]) ∧
    ((0x0F#32).toNat % 256 ∉ [0, 1, 2, 3, 4, 5, 6, 7, 8, 9, 16, 17]) ∧
    ((0x12#32).toNat % 256 ∉ [0, 1, 2, 3, 4, 5, 6, 7, 8, 9, 16, 17]) ∧
    ((0xFFFFFFFF#32).toNat % 256 ∉ [0, 1, 2, 3, 4, 5, 6, 7, 8, 9, 16, 17]) ∧
    ((0x00000100#32).toNat % 256 = Opcode.nop.pattern.toNat ∧ 0x00000100#32 &&& Opcode.nop.mask ≠ Opcode.nop.pattern) ∧
    ((0x80000011#32).toNat % 256 = Opcode.scomp.pattern.toNat ∧
      0x80000011#32 &&& Opcode.scomp.mask ≠ Opcode.scomp.pattern) ∧
    (max (readF (withF 1 5 1 .reset) 1).depth.val (readF (withF 1 5 1 .reset) 2).depth.val + 1 > dMax) ∧
    (withF 1 5 1 .reset).err = false := by
  decide +kernel

theorem witness_OnlyAddAndSubRaiseDepthErrors :
    ((readF (withF 2 5 1 .reset) 1).depth = 1 ∨ (readF (withF 2 5 1 .reset) 2).depth = 1) ∧
    ((readF (withF 1 5 0 .reset) 1).depth = 0 ∧ (readF (withF 1 5 0 .reset) 2).depth = 0) ∧
    ((0x00100005#32).toNat % 256 = 5 ∧ (0x00100005#32).toNat / 2 ^ 20 ≠ 0) ∧
    ((0x80000006#32).toNat % 256 = 6 ∧ (0x80000006#32).toNat / 2 ^ 20 ≠ 0) ∧
    (∀ rd rs1 rs2 : Reg, Instr.fmul 1 2 3 ≠ .fadd rd rs1 rs2 ∧ Instr.fmul 1 2 3 ≠ .fsub rd rs1 rs2) := by
  decide +kernel

theorem witness_NopRule : (0x00000100#32).toNat % 256 = 0 ∧ (0x00000100#32).toNat / 2 ^ 8 ≠ 0 := by decide
theorem witness_FzeroRule : (0x00001001#32).toNat % 256 = 0x01 ∧ (0x00001001#32).toNat / 2 ^ 12 ≠ 0 := by decide
theorem witness_FoneRule : (0x80000002#32).toNat % 256 = 0x02 ∧ (0x80000002#32).toNat / 2 ^ 12 ≠ 0 := by decide

/-- Buffers that differ only in the top bit of byte 31, and a word with RS1 = 1. -/
theorem witness_FloadRule :
    (∀ j : Fin 32, j.val < 31 → dataByte (State.reset.data.set 7 0x80000000) j = dataByte State.reset.data j) ∧
    ((dataByte (State.reset.data.set 7 0x80000000) 31).toNat % 128 = (dataByte State.reset.data 31).toNat % 128) ∧
    (State.reset.data.set 7 0x80000000 ≠ State.reset.data) ∧
    ((0x00001003#32).toNat % 256 = 0x03 ∧ (0x00001003#32).toNat / 2 ^ 12 ≠ 0) := by decide +kernel

theorem witness_FstoreRule :
    ((0x00000104#32).toNat % 256 = 0x04 ∧ (0x00000104#32).toNat / 2 ^ 8 % 16 ≠ 0) ∧
    ((0x00010004#32).toNat % 256 = 0x04 ∧ (0x00010004#32).toNat / 2 ^ 16 ≠ 0) := by decide

theorem witness_FaddRule :
    ((readF (withF 1 (P - 1) 0 .reset) 1).depth = 0 ∧ (readF (withF 1 (P - 1) 0 .reset) 2).depth = 0) ∧
    ((readF (withF 1 5 1 .reset) 1).depth = 1) ∧
    ((0x01001205#32).toNat % 256 = 0x05 ∧ (0x01001205#32).toNat / 2 ^ 20 ≠ 0) := by decide +kernel

theorem witness_FsubRule :
    ((readF (withF 2 1 0 .reset) 1).depth = 0 ∧ (readF (withF 2 1 0 .reset) 2).depth = 0) ∧
    ((readF (withF 2 9 1 .reset) 2).depth = 1) ∧
    ((0x80000006#32).toNat % 256 = 0x06 ∧ (0x80000006#32).toNat / 2 ^ 20 ≠ 0) := by decide +kernel

theorem witness_FmulRule :
    ((readF (withF 9 1 0 .reset) 9).value.val = 1) ∧
    ((0x00100007#32).toNat % 256 = 0x07 ∧ (0x00100007#32).toNat / 2 ^ 20 ≠ 0) := by decide +kernel

theorem witness_FsqrRule :
    ((readF (withF 2 (P - 5) 0 (withF 1 5 0 .reset)) 1).value.val +
      (readF (withF 2 (P - 5) 0 (withF 1 5 0 .reset)) 2).value.val = P) ∧
    ((0x00010008#32).toNat % 256 = 0x08 ∧ (0x00010008#32).toNat / 2 ^ 16 ≠ 0) := by decide +kernel

theorem witness_FinvRule :
    ((readF (withF 3 19 0 .reset) 3).value.val ≠ 0) ∧ ((readF State.reset 3).value.val = 0) ∧
    ((readF (withF 3 1 0 .reset) 3).value.val = 1) ∧ ((readF (withF 3 (P - 1) 1 .reset) 3).value.val = P - 1) ∧
    ((readF (withF 3 2 1 .reset) 3).value.val = 2) ∧
    ((0x00010009#32).toNat % 256 = 0x09 ∧ (0x00010009#32).toNat / 2 ^ 16 ≠ 0) := by decide +kernel

theorem witness_SinitRule : (0x00000110#32).toNat % 256 = 0x10 ∧ (0x00000110#32).toNat / 2 ^ 8 ≠ 0 := by decide

/-- Schedule indexes at both ends of 16 .. 79, round indexes at both ends of 0 .. 79, a word with RD = 1. -/
theorem witness_ScompRule : (16 ≤ 16 ∧ 16 < 80) ∧ (16 ≤ 79 ∧ 79 < 80) ∧ 0 < 80 ∧
    ((0x00000111#32).toNat % 256 = 0x11 ∧ (0x00000111#32).toNat / 2 ^ 8 ≠ 0) := by decide

theorem witness_MlenIsOnlyBookkeeping : Instr.nop ≠ .sinit ∧ Instr.nop ≠ .scomp := by decide

theorem witness_CommandsLeaveTheRestOfTheWindow :
    ((0x020#12).toNat ≠ 0x004 ∧ resultAt (.fmul 1 2 3) (0x020#12).toNat = false) ∧
    ((0x010#12).toNat ≠ 0x004 ∧ resultAt (.fstore 1) (0x010#12).toNat = false) ∧
    ((0x080#12).toNat ≠ 0x004 ∧ resultAt .scomp (0x080#12).toNat = false) ∧
    ((0x10C#12).toNat ≠ 0x004 ∧ resultAt .nop (0x10C#12).toNat = false) := by decide

theorem witness_ShaConstantsAreRootsOfPrimes : 0 < 80 ∧ 79 < 80 := by decide

theorem witness_ResetSetsEveryRegister :
    ((withEvents [.write 0x000 .four 0x3] busyState).rstn = true ∧
      (withEvents [.write 0x000 .four 0x3] busyState).inputs = .write 0x000 .four 0x3 :: [] ∧
      (0x3#32).getLsbD 1 = true) ∧
    ((withEvents [.resetLow, .engine] busyState).inputs = .resetLow :: [.engine]) ∧
    (AllReset (withEvents [.engine] .reset) ∧ (withEvents [.engine] .reset).inputs = .engine :: []) := by
  decide +kernel

theorem witness_HeldInResetNothingHappens :
    (busyState.rstn = true ∧ (0x2#32).getLsbD 1 = true) ∧
    ((holdReset (withEvents [.write 0x008 .four 1] busyState)).rstn = false ∧
      (holdReset (withEvents [.write 0x008 .four 1] busyState)).inputs = .write 0x008 .four 1 :: []) ∧
    ((holdReset (withEvents [.read 0x001 .one] busyState)).inputs = .read 0x001 .one :: []) ∧
    ((holdReset (withEvents [.engine] busyState)).inputs = .engine :: []) ∧
    ((holdReset (withEvents [.resetHigh] busyState)).inputs = .resetHigh :: []) := by decide +kernel

/-- A running command that completes, from a state that meets the invariant. -/
theorem witness_EveryStepKeepsTheInvariant :
    UnitInv busyState ∧ after (step busyState) = some { busyState with busy := false, done := true } := by
  decide +kernel

theorem witness_ReadsHaveNoSideEffects :
    (withEvents [.read 0xFFC .four, .read 0xFFC .four] busyState).rstn = true ∧ (0xFFC#12).toNat % 4 = 0 ∧
    (withEvents [.read 0xFFC .four, .read 0xFFC .four] busyState).inputs =
      .read 0xFFC .four :: .read 0xFFC .four :: [] := by decide +kernel

/-- A size that is not 4 at an aligned offset; an unaligned offset at size 4; both ends of the window. -/
theorem witness_MalformedAccessRecordsAccessError :
    busyState.rstn = true ∧ (Size.one ≠ .four ∨ (0x000#12).toNat % 4 ≠ 0) ∧
    (Size.four ≠ .four ∨ (0xFFF#12).toNat % 4 ≠ 0) ∧
    (withEvents [.write 0x000 .one 0xAB] busyState).inputs = .write 0x000 .one 0xAB :: [] ∧
    (withEvents [.read 0xFFF .four] busyState).inputs = .read 0xFFF .four :: [] := by decide +kernel

theorem witness_CommandWriteIsAccepted :
    (withEvents [.write 0x008 .four 0xFFFFFFFF] .reset).rstn = true ∧
    (withEvents [.write 0x008 .four 0xFFFFFFFF] .reset).busy = false ∧
    (withEvents [.write 0x008 .four 0xFFFFFFFF] .reset).inputs = .write 0x008 .four 0xFFFFFFFF :: [] := by
  decide +kernel

theorem witness_WritesWhileBusyAreRefused :
    (busyState.rstn = true ∧ busyState.busy = true) ∧
    ((0x008#12).toNat % 4 = 0 ∧ (0x008#12).toNat = 0x008) ∧
    ((0x020#12).toNat % 4 = 0 ∧ 0x020 ≤ (0x020#12).toNat ∧ (0x020#12).toNat < 0x110) ∧
    ((0x10C#12).toNat % 4 = 0 ∧ 0x020 ≤ (0x10C#12).toNat ∧ (0x10C#12).toNat < 0x110) ∧
    (withEvents [.write 0x10C .four 7] busyState).inputs = .write 0x10C .four 7 :: [] := by decide +kernel

/-- A write to DATA[0] while a command runs: dropped, with E_BUSY. -/
theorem witness_HostCannotDisturbARunningCommand :
    (withEvents [.write 0x020 .four 7] busyState).busy = true ∧
    (withEvents [.write 0x020 .four 7] busyState).rstn = true ∧
    (withEvents [.write 0x020 .four 7] busyState).inputs = .write 0x020 .four 7 :: [] ∧
    (Input.write 0x020 .four 7 ≠ .engine ∧ Input.write 0x020 .four 7 ≠ .resetLow) ∧
    (∀ v : Word, v.getLsbD 1 = true → Input.write 0x020 .four 7 ≠ .write 0x000 .four v) ∧
    after (step (withEvents [.write 0x020 .four 7] busyState)) =
      some { busyState with err := true, errcode := 4 } ∧
    ((0x10C#12).toNat % 4 = 0 ∧ 0x020 ≤ (0x10C#12).toNat ∧ (0x10C#12).toNat < 0x110) := by
  refine ⟨by decide +kernel, by decide +kernel, by decide +kernel, by decide, fun v _ h => ?_, by decide +kernel, by decide⟩
  injection h with h
  exact absurd h (by decide)

theorem witness_StatusWriteClears :
    (withEvents [.write 0x004 .four 0x6] busyState).rstn = true ∧
    (withEvents [.write 0x004 .four 0x6] busyState).inputs = .write 0x004 .four 0x6 :: [] := by decide +kernel

theorem witness_CtrlWriteSetsEnableOrResets :
    (withEvents [.write 0x000 .four 0x1] busyState).rstn = true ∧
    (withEvents [.write 0x000 .four 0x1] busyState).inputs = .write 0x000 .four 0x1 :: [] := by decide +kernel

theorem witness_ReservedAndReadOnlyOffsets :
    ((0x00C#12).toNat % 4 = 0 ∧ (0x00C#12).toNat = 0x00C) ∧ ((0x010#12).toNat % 4 = 0 ∧ (0x010#12).toNat = 0x010) ∧
    ((0x014#12).toNat % 4 = 0 ∧ 0x014 ≤ (0x014#12).toNat ∧ (0x014#12).toNat < 0x020) ∧
    ((0x01C#12).toNat % 4 = 0 ∧ 0x014 ≤ (0x01C#12).toNat ∧ (0x01C#12).toNat < 0x020) ∧
    ((0x110#12).toNat % 4 = 0 ∧ 0x110 ≤ (0x110#12).toNat) ∧ ((0xFFC#12).toNat % 4 = 0 ∧ 0x110 ≤ (0xFFC#12).toNat) := by
  decide

/-- The reserved offsets at the ends of their two ranges. -/
theorem witness_WindowReadsEachRegister :
    ∀ off ∈ [(0x014 : Offset), 0x01C, 0x110, 0xFFC], off.toNat % 4 = 0 ∧
      (0x014 ≤ off.toNat ∧ off.toNat < 0x020 ∨ 0x110 ≤ off.toNat) := by decide

theorem witness_OperandWritesReadBack :
    State.reset.busy = false ∧
    ((0x020#12).toNat % 4 = 0 ∧ 0x020 ≤ (0x020#12).toNat ∧ (0x020#12).toNat < 0x110) ∧
    ((0x10C#12).toNat % 4 = 0 ∧ 0x020 ≤ (0x10C#12).toNat ∧ (0x10C#12).toNat < 0x110) ∧ (0x024#12) ≠ 0x020 := by decide

theorem witness_WideRegistersAreWrittenInHalves :
    State.reset.busy = false ∧ busyState.busy = true ∧
    ((0x040#12).toNat % 4 = 0 ∧ 0x040 ≤ (0x040#12).toNat ∧ (0x040#12).toNat < 0x110) ∧
    ((0x10C#12).toNat % 4 = 0 ∧ 0x040 ≤ (0x10C#12).toNat ∧ (0x10C#12).toNat < 0x110) := by decide

/-- A second error while ERR is set. -/
theorem witness_FirstErrorStays :
    (withEvents [.read 0x022 .four] { busyState with err := true, errcode := 4 }).err = true ∧
    after (step (withEvents [.read 0x022 .four] { busyState with err := true, errcode := 4 })) =
      some { busyState with err := true, errcode := 4, replies := [0] } := by decide +kernel

/-- A completion, which sets DONE; an acceptance, which clears it; a read, which leaves a busy unit not done. -/
theorem witness_DoneMarksCompletion :
    (NextCompletes busyState 0x00003409 ∧
      after (step busyState) = some { busyState with busy := false, done := true }) ∧
    (after (step (withEvents [.write 0x008 .four 0] { State.reset with done := true })) =
      some { State.reset with busy := true }) ∧
    (after (step (withEvents [.read 0x00C .four] busyState)) = some { busyState with replies := [0x25519001] } ∧
      busyState.busy = true ∧ busyState.done = false) := by decide +kernel

/-- For each register a step that changes it and is no reset. -/
theorem witness_RegistersChangeOnlyByTheirWriters :
    (∀ x ∈ [Input.engine, .write 0x080 .four 7, .write 0x03C .four 7, .write 0x040 .four 7, .write 0x10C .four 7,
      .write 0x000 .four 1, .write 0x008 .four 7], ¬ NextResets (withEvents [x] .reset)) ∧
    ((after (step { busyState with pend := 0x102 })).map (readF · 1) ≠ some (readF busyState 1)) ∧
    ((after (step { busyState with pend := 0xF02 })).map (readF · 15) ≠ some (readF busyState 15)) ∧
    ((after (step (withEvents [.write 0x080 .four 7] .reset))).map State.w ≠ some State.reset.w) ∧
    ((after (step (withEvents [.write 0x03C .four 7] .reset))).map State.data ≠ some State.reset.data) ∧
    ((after (step (withF 0 5 0 { busyState with pend := 0x4 }))).map State.data ≠ some State.reset.data) ∧
    ((after (step (withEvents [.write 0x040 .four 7] .reset))).map State.h ≠ some State.reset.h) ∧
    ((after (step { busyState with pend := 0x10 })).map State.h ≠ some State.reset.h) ∧
    ((after (step (withEvents [.write 0x10C .four 7] .reset))).map State.mlen ≠ some State.reset.mlen) ∧
    ((after (step { busyState with pend := 0x11 })).map State.mlen ≠ some State.reset.mlen) ∧
    ((after (step (withEvents [.write 0x000 .four 1] .reset))).map State.ie ≠ some State.reset.ie) ∧
    ((after (step (withEvents [.write 0x008 .four 7] .reset))).map State.lastcmd ≠ some State.reset.lastcmd) ∧
    ((after (step (withEvents [.write 0x008 .four 7] .reset))).map State.pend ≠ some State.reset.pend) ∧
    ((after (step (withEvents [.write 0x008 .four 7] .reset))).map State.busy ≠ some State.reset.busy) ∧
    ((after (step { busyState with pend := 0 })).map State.busy ≠ some busyState.busy) := by
  refine ⟨fun x hx => ?_, by decide +kernel⟩
  rintro (h | ⟨v, -, h, hv⟩)
  · fin_cases hx <;> simp [withEvents] at h
  · fin_cases hx <;> simp [withEvents] at h
    subst h
    exact absurd hv (by decide)

theorem witness_InterruptFollowsDoneAndErr :
    after (completeWord 0x00000000 { busyState with ie := true }) =
      some { busyState with ie := true, busy := false, done := true } ∧ State.reset.busy = false := by decide +kernel

theorem witness_RecordedErrorDoesNotBlock : ({ State.reset with err := true, errcode := 3 }).busy = false := by decide

/-- Two states with different values and equal depths and flags. -/
theorem witness_RejectionDependsOnWordAndDepths :
    (∀ r : Reg, (readF (withF 1 5 1 .reset) r).depth = (readF (withF 1 7 1 { State.reset with mlen := 9 }) r).depth) ∧
    (withF 1 5 1 .reset).err = (withF 1 7 1 { State.reset with mlen := 9 }).err ∧
    (withF 1 5 1 .reset).errcode = (withF 1 7 1 { State.reset with mlen := 9 }).errcode ∧
    readF (withF 1 5 1 .reset) 1 ≠ readF (withF 1 7 1 .reset) 1 := by decide +kernel

theorem witness_LatencyDoesNotMatter : State.reset.rstn = true ∧ State.reset.busy = false := by decide

theorem witness_HostByteOrder : State.reset.rstn = true ∧ State.reset.busy = false ∧
    (List.replicate 32 (0xAB : Byte)).length = 32 ∧ (List.replicate 128 (0xAB : Byte)).length = 128 := by decide

theorem witness_LoadedLimbsRepresentTheValue : 0 < 2 ^ 255 ∧ 2 ^ 255 - 1 < 2 ^ 255 := by decide

/-- Limbs at their depth-0 bound, with alternating signs. -/
def edgeLimbs (d : Depth) : Limbs := Vector.ofFn fun i => if i.val % 2 = 0 then (limbBound d : Int) else -(limbBound d : Int)

theorem witness_LimbAddAndSubRepresent :
    (⟨limbValue (edgeLimbs 0), 0⟩ : FReg).depth = 0 ∧ Represents (edgeLimbs 0) ⟨limbValue (edgeLimbs 0), 0⟩ := by
  decide +kernel

theorem witness_MultiplierColumnsFit : Represents (edgeLimbs 1) ⟨limbValue (edgeLimbs 1), 1⟩ := by decide +kernel

theorem witness_LimbMulRepresentsTheProduct :
    Represents (edgeLimbs 1) ⟨limbValue (edgeLimbs 1), 1⟩ ∧ Represents (limbsOfNat 5) ⟨fpOfNat 5, 0⟩ := by
  decide +kernel

theorem witness_LimbStoreIsCanonical : Represents (edgeLimbs 1) ⟨limbValue (edgeLimbs 1), 1⟩ := by decide +kernel

theorem witness_InversionChainComputesTheInverse : Represents (limbsOfNat 19) ⟨fpOfNat 19, 0⟩ := by decide +kernel

theorem witness_FieldLaws : fpOfNat 19 ≠ fpZero := by decide +kernel

end Sys2Proof.Tests
end

section
/-! SUPPORT. The accesses of the window and the events of a step as equations: what an aligned four-byte access does is
what it does to the register that stands there (rules R82, R83, R86), and what a step does is what its next event does. -/

namespace Sys2Proof.Machine

/-! ### Aligned four-byte accesses -/

theorem memWrite_four {off : Offset} (aligned : off.toNat % 4 = 0) (v : Word) (s : State) :
    memWrite off .four v s = writeReg (regAt off) v s :=
  if_pos (wellFormedAccess_iff.mpr ⟨rfl, aligned⟩)

theorem memReadValue_four {off : Offset} (aligned : off.toNat % 4 = 0) (s : State) :
    memReadValue off .four s = readReg s (regAt off) :=
  if_pos (wellFormedAccess_iff.mpr ⟨rfl, aligned⟩)

theorem memReadState_four {off : Offset} (aligned : off.toNat % 4 = 0) (s : State) :
    memReadState off .four s = s :=
  if_pos (wellFormedAccess_iff.mpr ⟨rfl, aligned⟩)

/-- A write at the offset where `r` stands is the write to `r`. -/
theorem memWrite_four_of_standsAt {off : Offset} {r : WinReg} (aligned : off.toNat % 4 = 0)
    (at_r : StandsAt off.toNat r) (v : Word) (s : State) : memWrite off .four v s = writeReg r v s := by
  rw [memWrite_four aligned, regAt_eq_of_standsAt off r aligned at_r]

/-- A read at the offset where `r` stands is the read of `r`. -/
theorem memReadValue_four_of_standsAt {off : Offset} {r : WinReg} (aligned : off.toNat % 4 = 0)
    (at_r : StandsAt off.toNat r) (s : State) : memReadValue off .four s = readReg s r := by
  rw [memReadValue_four aligned, regAt_eq_of_standsAt off r aligned at_r]

/-! ### What a step does, by its next event -/

theorem step_write {s : State} {off : Offset} {size : Size} {v : Word} {rest : List Input}
    (h : s.inputs = .write off size v :: rest) : step s = .next (hostWrite off size v (setInputs rest s)) := by
  simp only [step, h]

theorem step_resetLow {s : State} {rest : List Input} (h : s.inputs = .resetLow :: rest) :
    step s = .next (holdReset (setInputs rest s)) := by
  simp only [step, h]

theorem step_engine {s : State} {rest : List Input} (h : s.inputs = .engine :: rest) :
    step s = engineTurn (setInputs rest s) := by
  simp only [step, h]

/-- The engine's turn does nothing to a unit that is not busy (rule R293). -/
theorem step_engine_of_not_busy {s : State} {rest : List Input} (h : s.inputs = .engine :: rest)
    (idle : s.busy = false) : step s = .next (setInputs rest s) := by
  rw [step_engine h]
  exact engineTurn_idle (pendingCommand_eq_none.mpr (.inr idle))

/-- Out of reset, a host write is the window's write. -/
theorem hostWrite_of_rstn {s : State} (h : s.rstn = true) (off : Offset) (size : Size) (v : Word) :
    hostWrite off size v s = memWrite off size v s :=
  if_pos h

end Sys2Proof.Machine
end

section
/-! PROOFS. The reset values (rule R59), and the two resets. -/

namespace Sys2Proof.Machine

@[simp] theorem readF_reset (i : Reg) : readF State.reset i = ⟨⟨0, Config.P_pos⟩, 0⟩ := by
  simp [readF, State.reset]

theorem fdepthWord_reset : fdepthWord State.reset = 0 := by decide

theorem allReset_reset : AllReset State.reset := by
  refine ⟨fun i => ?_, fun k => ?_, fun i => ?_, fun i => ?_, rfl, rfl, rfl, rfl, rfl, rfl, rfl, rfl, rfl,
    fdepthWord_reset, rfl⟩
  · simp
  all_goals simp [State.reset]

/-- The reset values are those of the registers alone: a software reset gives them whatever the level of `rst_n`, the
events to come and the values read are. -/
theorem allReset_resetUnit (s : State) : AllReset (resetUnit s) := allReset_reset

theorem allReset_holdReset (s : State) : AllReset (holdReset s) := allReset_reset

/-- A write to CTRL with SRST set resets the unit, whatever its other bits ask for (rule R97). -/
theorem memWrite_ctrl_srst {v : Word} (srst : v.getLsbD 1 = true) (s : State) :
    memWrite 0x000 .four v s = resetUnit s :=
  (memWrite_four_of_standsAt (off := 0x000) (r := .ctrl) rfl rfl v s).trans (if_pos srst)

/-- A unit with its reset values has no command in progress. -/
theorem AllReset.busy_eq {t : State} (h : AllReset t) : t.busy = false := by
  obtain ⟨-, -, -, -, -, -, hbusy, -⟩ := h
  exact hbusy

/-- Settles O25: each reset's next state is `resetUnit` or `holdReset` of the state before, and after it the engine
finds no command to complete. -/
theorem resetSetsEveryRegister : Obligations.ResetSetsEveryRegister := by
  refine ⟨allReset_reset, fun s v rest up event srst => ?soft, fun s rest event => ?hard,
    fun t rest reset event => step_engine_of_not_busy event reset.busy_eq⟩
  case soft =>
    refine ⟨resetUnit (setInputs rest s), ?_, allReset_resetUnit _, up, rfl, rfl⟩
    rw [step_write event, hostWrite_of_rstn (s := setInputs rest s) up, memWrite_ctrl_srst srst]
  case hard => exact ⟨_, step_resetLow event, allReset_holdReset _, rfl, rfl, rfl⟩

end Sys2Proof.Machine
end

section
/-! PROOFS. The offsets of the window that ignore writes, and FDEPTH (rules R51, R56, R84, R98). -/

namespace Sys2Proof.Machine

/-- Settles O37, by which register stands at the offset. -/
theorem reservedAndReadOnlyOffsets : Obligations.ReservedAndReadOnlyOffsets := by
  intro s off aligned
  refine ⟨fun ignored v => ?_, fun reserved => ⟨?_, memReadState_four aligned s⟩, fun atId => ?_⟩
  · rcases ignored with atId | atFdepth | reserved
    · exact memWrite_four_of_standsAt (r := .id) aligned atId v s
    · exact memWrite_four_of_standsAt (r := .fdepth) aligned atFdepth v s
    · exact memWrite_four_of_standsAt (r := .reserved) aligned reserved v s
  · exact memReadValue_four_of_standsAt (r := .reserved) aligned reserved s
  · exact memReadValue_four_of_standsAt (r := .id) aligned atId s

/-- The depth tags of the sixteen field registers, F0's first: the base-4 digits of FDEPTH (rule R51). -/
def depthDigits (s : State) : List Nat := s.f.toList.map fun r => r.depth.val

@[simp] theorem length_depthDigits (s : State) : (depthDigits s).length = 16 := by simp [depthDigits]

theorem getElem_depthDigits (s : State) (i : Reg) :
    (depthDigits s)[i.val]'(by simp) = (readF s i).depth.val := by
  simp [depthDigits, readF]

theorem lt_four_of_mem_depthDigits {s : State} {d : Nat} (h : d ∈ depthDigits s) : d < 4 := by
  obtain ⟨r, -, rfl⟩ := List.mem_map.mp h
  exact r.depth.isLt.trans (by decide)

/-- FDEPTH as a number: sixteen base-4 digits fit 32 bits. -/
theorem fdepthWord_toNat (s : State) : (fdepthWord s).toNat = Nat.ofDigits 4 (depthDigits s) := by
  have fits : Nat.ofDigits 4 (depthDigits s) < 2 ^ 32 := by
    have := Nat.ofDigits_lt_base_pow_length (b := 4) (l := depthDigits s) (by decide)
      fun _ => lt_four_of_mem_depthDigits
    simpa using this
  have digits : s.f.toList.foldr (fun r rest => r.depth.val + 4 * rest) 0 = Nat.ofDigits 4 (depthDigits s) := by
    simp [Nat.ofDigits_eq_foldr, depthDigits, List.foldr_map]
  rw [fdepthWord, digits, BitVec.toNat_ofNat, Nat.mod_eq_of_lt fits]

/-- Bits 2i+1:2i of FDEPTH are the depth of F[i] (rule R51). -/
theorem fdepthWord_field (s : State) (i : Reg) :
    ((fdepthWord s).extractLsb' (2 * i.val) 2).toNat = (readF s i).depth.val := by
  have digit : Nat.ofDigits 4 (depthDigits s) / 4 ^ i.val % 4 = (readF s i).depth.val := by
    rw [Nat.ofDigits_div_pow_eq_ofDigits_drop i.val (by decide) _ fun _ => lt_four_of_mem_depthDigits,
      List.drop_eq_getElem_cons (by simp), getElem_depthDigits, Nat.ofDigits_cons, Nat.add_mul_mod_self_left]
    exact Nat.mod_eq_of_lt ((readF s i).depth.isLt.trans (by decide))
  rw [BitVec.extractLsb'_toNat, fdepthWord_toNat, Nat.shiftRight_eq_div_pow, pow_mul]
  exact digit

/-- The upper bit of each field of FDEPTH is 0, a depth being 0 or 1. -/
theorem fdepthWord_upper_bit (s : State) (i : Reg) : (fdepthWord s).getLsbD (2 * i.val + 1) = false := by
  have field : ((fdepthWord s).extractLsb' (2 * i.val) 2).getLsbD 1 = (fdepthWord s).getLsbD (2 * i.val + 1) := by
    simp
  rw [← field, BitVec.getLsbD, fdepthWord_field]
  exact Nat.testBit_lt_two_pow (readF s i).depth.isLt

theorem memWrite_fdepth (v : Word) (s : State) : memWrite 0x010 .four v s = s :=
  memWrite_four_of_standsAt (off := 0x010) (r := .fdepth) rfl rfl v s

theorem memReadValue_fdepth (s : State) : memReadValue 0x010 .four s = fdepthWord s :=
  memReadValue_four_of_standsAt (off := 0x010) (r := .fdepth) rfl rfl s

/-- Settles O39: FDEPTH is the number whose base-4 digits are the depth tags. -/
theorem fdepthShowsEveryDepth : Obligations.FdepthShowsEveryDepth := by
  refine ⟨fun s i => ?_, fun s v => memWrite_fdepth v s, ?_⟩
  · rw [memReadValue_fdepth]
    exact ⟨fdepthWord_field s i, fdepthWord_upper_bit s i⟩
  · rw [memReadValue_fdepth, fdepthWord_reset]

end Sys2Proof.Machine
end

section
/-! PROOFS. The interrupt line (rule R52). -/

namespace Sys2Proof.Machine

theorem irq_iff (s : State) : irq s = true ↔ s.ie = true ∧ (s.done = true ∨ s.err = true) := by
  simp [irq]

/-- Every command completes with DONE set, and leaves IE as it was. -/
theorem exec_done_ie {i : Instr} {s t : State} (h : exec i s = .next t) : t.done = true ∧ t.ie = s.ie := by
  rcases exec_cases i s with ⟨rd, r, -, e⟩ | ⟨d, e⟩ | ⟨hv, m, e⟩ | e | e <;> cases e.symm.trans h
  case inr.inr.inr.inr => exact ⟨reject_done .depth s, reject_ie .depth s⟩
  all_goals exact ⟨rfl, rfl⟩

/-- So does the completion of any word, an illegal one too (rules R271, R276). -/
theorem completeWord_done_ie {v : Word} {s t : State} (h : completeWord v s = .next t) :
    t.done = true ∧ t.ie = s.ie := by
  rcases completeWord_cases v s with ⟨i, -, e⟩ | ⟨err, -, e⟩
  · exact exec_done_ie (e.symm.trans h)
  · cases e.symm.trans h
    exact ⟨reject_done _ s, reject_ie _ s⟩

theorem memWrite_status (v : Word) (s : State) : memWrite 0x004 .four v s = acknowledge v s :=
  memWrite_four_of_standsAt (off := 0x004) (r := .status) rfl rfl v s

theorem memWrite_cmd_of_idle {s : State} (idle : s.busy = false) (v : Word) :
    memWrite 0x008 .four v s = accept v s :=
  (memWrite_four_of_standsAt (off := 0x008) (r := .cmd) rfl rfl v s).trans (by simp [writeReg, idle])

/-- Settles O45, from what a completion, an acknowledgement and an acceptance do to IE, DONE and ERR. -/
theorem interruptFollowsDoneAndErr : Obligations.InterruptFollowsDoneAndErr := by
  refine ⟨irq_iff, fun v s t completes => ?completion, fun s => ?ack, fun s v idle => ?acceptance⟩
  case completion =>
    obtain ⟨hdone, hie⟩ := completeWord_done_ie completes
    simp [irq, hdone, hie]
  case ack =>
    rw [memWrite_status]
    simp [irq]
  case acceptance =>
    rw [memWrite_cmd_of_idle idle]
    simp [irq]

end Sys2Proof.Machine
end

section
/-! SUPPORT. What an access of the window does: an access that is not well-formed, a read, and a
write by the register it reaches, to an idle unit and to a busy one (rules R83, R93–R100). -/

namespace Sys2Proof.Machine

/-- Recording an error, as the statements write it. -/
theorem recordError_eq_erredState (e : ErrCode) (s : State) : recordError e s = erredState e.code s :=
  recordError_eq e s

/-! ### Accesses that are not well-formed -/

theorem not_wellFormedAccess {off : Offset} {size : Size} (malformed : size ≠ .four ∨ off.toNat % 4 ≠ 0) :
    ¬ wellFormedAccess off size = true := by
  rw [wellFormedAccess_iff, not_and_or]
  exact malformed

theorem memWrite_malformed {off : Offset} {size : Size} (malformed : size ≠ .four ∨ off.toNat % 4 ≠ 0) (v : Word)
    (s : State) : memWrite off size v s = erredState 5 s :=
  (if_neg (not_wellFormedAccess malformed)).trans (recordError_eq_erredState .access s)

theorem memReadState_malformed {off : Offset} {size : Size} (malformed : size ≠ .four ∨ off.toNat % 4 ≠ 0)
    (s : State) : memReadState off size s = erredState 5 s :=
  (if_neg (not_wellFormedAccess malformed)).trans (recordError_eq_erredState .access s)

theorem memReadValue_malformed {off : Offset} {size : Size} (malformed : size ≠ .four ∨ off.toNat % 4 ≠ 0)
    (s : State) : memReadValue off size s = 0 :=
  if_neg (not_wellFormedAccess malformed)

/-- A read changes nothing of the unit, or records E_ACCESS. -/
theorem memReadState_cases (off : Offset) (size : Size) (s : State) :
    memReadState off size s = s ∨ memReadState off size s = erredState 5 s := by
  by_cases aligned : size = .four ∧ off.toNat % 4 = 0
  · obtain ⟨rfl, aligned⟩ := aligned
    exact .inl (memReadState_four aligned s)
  · exact .inr (memReadState_malformed (not_and_or.mp aligned) s)

/-! ### The accesses as steps of a unit that is out of reset -/

theorem step_write_of_rstn {s : State} {off : Offset} {size : Size} {v : Word} {rest : List Input}
    (up : s.rstn = true) (event : s.inputs = .write off size v :: rest) :
    step s = .next (memWrite off size v (setInputs rest s)) := by
  rw [step_write event, hostWrite_of_rstn (s := setInputs rest s) up]

theorem step_read {s : State} {off : Offset} {size : Size} {rest : List Input}
    (event : s.inputs = .read off size :: rest) : step s = .next (hostRead off size (setInputs rest s)) := by
  simp only [step, event]

theorem step_read_of_rstn {s : State} {off : Offset} {size : Size} {rest : List Input}
    (up : s.rstn = true) (event : s.inputs = .read off size :: rest) :
    step s = .next (reply (memReadValue off size (setInputs rest s)) (memReadState off size (setInputs rest s))) := by
  rw [step_read event]
  exact congrArg _ (if_pos up)

theorem step_resetHigh {s : State} {rest : List Input} (event : s.inputs = .resetHigh :: rest) :
    step s = .next (releaseReset (setInputs rest s)) := by
  simp only [step, event]

/-! ### CTRL and STATUS -/

theorem memWrite_ctrl (v : Word) (s : State) : memWrite 0x000 .four v s = writeCtrl v s :=
  memWrite_four_of_standsAt (off := 0x000) (r := .ctrl) rfl rfl v s

theorem acknowledge_eq (v : Word) (s : State) :
    acknowledge v s = { s with
      done := if v.getLsbD 1 then false else s.done
      err := if v.getLsbD 2 then false else s.err
      errcode := if v.getLsbD 2 then 0 else s.errcode } := by
  unfold acknowledge
  cases v.getLsbD 1 <;> cases v.getLsbD 2 <;> simp

/-! ### The operand registers -/

/-- The operand registers, whose writes a busy unit refuses: DATA, H, W and MLEN (rule R100). -/
def WinReg.IsOperand : WinReg → Prop
  | .ctrl | .status | .cmd | .id | .fdepth | .reserved => False
  | .data _ | .hLo _ | .hHi _ | .wLo _ | .wHi _ | .mlen _ => True

/-- The operand registers are those that stand at 0x020 up to 0x10F (rule R86). -/
theorem StandsAt.isOperand_iff {n : Nat} {r : WinReg} (at_r : StandsAt n r) :
    r.IsOperand ↔ 0x020 ≤ n ∧ n < 0x110 := by
  cases r <;> simp only [StandsAt] at at_r <;> simp only [WinReg.IsOperand, true_iff, false_iff] <;> omega

theorem regAt_isOperand {off : Offset} (aligned : off.toNat % 4 = 0) (lo : 0x020 ≤ off.toNat)
    (hi : off.toNat < 0x110) : (regAt off).IsOperand :=
  (regAt_standsAt off aligned).isOperand_iff.mpr ⟨lo, hi⟩

theorem writeOperand_of_busy {s : State} (busy : s.busy = true) (t : State) :
    writeOperand s t = erredState 4 s :=
  (if_pos busy).trans (recordError_eq_erredState .busy s)

theorem writeOperand_of_idle {s : State} (idle : s.busy = false) (t : State) : writeOperand s t = t :=
  if_neg (by simp [idle])

theorem writeReg_cmd_of_busy {s : State} (busy : s.busy = true) (v : Word) :
    writeReg .cmd v s = erredState 4 s :=
  (if_pos busy).trans (recordError_eq_erredState .busy s)

/-- A busy unit refuses a write to any operand register (rules R100, R277). -/
theorem writeReg_operand_of_busy {r : WinReg} (operand : r.IsOperand) {s : State} (busy : s.busy = true)
    (v : Word) : writeReg r v s = erredState 4 s := by
  cases r with
  | ctrl | status | cmd | id | fdepth | reserved => exact operand.elim
  | data | hLo | hHi | wLo | wHi | mlen => exact writeOperand_of_busy busy _

theorem memWrite_operand_of_busy {off : Offset} (aligned : off.toNat % 4 = 0) (lo : 0x020 ≤ off.toNat)
    (hi : off.toNat < 0x110) {s : State} (busy : s.busy = true) (v : Word) :
    memWrite off .four v s = erredState 4 s := by
  rw [memWrite_four aligned, writeReg_operand_of_busy (regAt_isOperand aligned lo hi) busy]

end Sys2Proof.Machine
end

section
/-! PROOFS. Accesses that are not well-formed, and the writes of CMD, STATUS and CTRL
(rules R83, R93, R94, R96, R97). -/

namespace Sys2Proof.Machine

/-- Settles O31: neither kind of access is well-formed, and recording E_ACCESS is all that it does. -/
theorem malformedAccessRecordsAccessError : Obligations.MalformedAccessRecordsAccessError := by
  refine fun s off size v rest up malformed => ⟨fun event => ?write, fun event => ?read⟩
  case write =>
    rw [step_write_of_rstn up event, memWrite_malformed malformed]
    rfl
  case read =>
    rw [step_read_of_rstn up event, memReadValue_malformed malformed, memReadState_malformed malformed]
    rfl

/-- Settles O32: an idle unit accepts the word. -/
theorem commandWriteIsAccepted : Obligations.CommandWriteIsAccepted := by
  intro s v rest up idle event
  rw [step_write_of_rstn up event, memWrite_cmd_of_idle (s := setInputs rest s) idle]
  rfl

/-- Settles O33: CMD stands at 0x008 and the operand registers at the other offsets. -/
theorem writesWhileBusyAreRefused : Obligations.WritesWhileBusyAreRefused := by
  intro s off v rest up busy aligned place event
  rw [step_write_of_rstn up event]
  rcases place with atCmd | ⟨lo, hi⟩
  · rw [memWrite_four_of_standsAt (r := .cmd) aligned atCmd, writeReg_cmd_of_busy (s := setInputs rest s) busy]
    rfl
  · rw [memWrite_operand_of_busy aligned lo hi (s := setInputs rest s) busy]
    rfl

/-- Settles O35: the write is the acknowledgement. -/
theorem statusWriteClears : Obligations.StatusWriteClears := by
  intro s v rest up event
  rw [step_write_of_rstn up event, memWrite_status, acknowledge_eq]
  rfl

/-- Settles O36, by SRST. -/
theorem ctrlWriteSetsEnableOrResets : Obligations.CtrlWriteSetsEnableOrResets := by
  intro s v rest up event
  rw [step_write_of_rstn up event, memWrite_ctrl, writeCtrl]
  split
  · simp [resetUnit, up, State.reset]
  · rfl

end Sys2Proof.Machine
end

section
/-! PROOFS. What the host cannot change while a command runs (rule R100). -/

namespace Sys2Proof.Machine

/-- `t` is `s` with other values of IE, DONE, ERR, ERRCODE and the values read: all that a host access other than a
reset can change while a command runs. -/
def CommandUndisturbed (s t : State) : Prop :=
  ∃ ie done err errcode replies, t = { s with ie, done, err, errcode, replies }

theorem CommandUndisturbed.refl (s : State) : CommandUndisturbed s s := ⟨_, _, _, _, _, rfl⟩

theorem commandUndisturbed_erredState (c : BitVec 4) (s : State) : CommandUndisturbed s (erredState c s) :=
  ⟨_, _, _, _, _, rfl⟩

theorem commandUndisturbed_acknowledge (v : Word) (s : State) : CommandUndisturbed s (acknowledge v s) :=
  ⟨_, _, _, _, _, rfl⟩

theorem CommandUndisturbed.reply {s t : State} (h : CommandUndisturbed s t) (v : Word) :
    CommandUndisturbed s (reply v t) := by
  obtain ⟨_, _, _, _, _, rfl⟩ := h
  exact ⟨_, _, _, _, _, rfl⟩

theorem commandUndisturbed_writeCtrl {v : Word} (noReset : ¬ v.getLsbD 1 = true) (s : State) :
    CommandUndisturbed s (writeCtrl v s) := by
  rw [writeCtrl, if_neg noReset]
  exact ⟨_, _, _, _, _, rfl⟩

/-- Every register but CTRL is one whose write a busy unit takes without disturbing its command, or refuses. -/
theorem commandUndisturbed_writeReg {r : WinReg} {v : Word} {s : State} (busy : s.busy = true)
    (noReset : r = .ctrl → ¬ v.getLsbD 1 = true) : CommandUndisturbed s (writeReg r v s) := by
  cases r with
  | ctrl => exact commandUndisturbed_writeCtrl (noReset rfl) s
  | status => exact commandUndisturbed_acknowledge v s
  | cmd =>
    rw [writeReg_cmd_of_busy busy]
    exact commandUndisturbed_erredState 4 s
  | id | fdepth | reserved => exact .refl s
  | data | hLo | hHi | wLo | wHi | mlen =>
    rw [writeReg_operand_of_busy (by trivial) busy]
    exact commandUndisturbed_erredState 4 s

/-- CTRL stands at offset 0 alone. -/
theorem eq_zero_of_regAt_eq_ctrl {off : Offset} (aligned : off.toNat % 4 = 0) (h : regAt off = .ctrl) :
    off = 0x000 := by
  have at_ctrl := regAt_standsAt off aligned
  rw [h] at at_ctrl
  exact BitVec.eq_of_toNat_eq at_ctrl

theorem commandUndisturbed_memWrite {off : Offset} {size : Size} {v : Word} {s : State} (busy : s.busy = true)
    (noReset : off = 0x000 → size = .four → ¬ v.getLsbD 1 = true) :
    CommandUndisturbed s (memWrite off size v s) := by
  by_cases aligned : size = .four ∧ off.toNat % 4 = 0
  · obtain ⟨rfl, aligned⟩ := aligned
    rw [memWrite_four aligned]
    exact commandUndisturbed_writeReg busy fun h => noReset (eq_zero_of_regAt_eq_ctrl aligned h) rfl
  · rw [memWrite_malformed (not_and_or.mp aligned)]
    exact commandUndisturbed_erredState 5 s

theorem commandUndisturbed_memReadState (off : Offset) (size : Size) (s : State) :
    CommandUndisturbed s (memReadState off size s) := by
  rcases memReadState_cases off size s with h | h <;> rw [h]
  · exact .refl s
  · exact commandUndisturbed_erredState 5 s

/-- A step that takes an event of the host other than a reset leaves the command in progress alone. -/
theorem commandUndisturbed_step {s t : State} {x : Input} {rest : List Input} (busy : s.busy = true)
    (up : s.rstn = true) (event : s.inputs = x :: rest) (notEngine : x ≠ .engine) (notLow : x ≠ .resetLow)
    (noReset : ∀ v : Word, v.getLsbD 1 = true → x ≠ .write 0x000 .four v) (taken : step s = .next t) :
    CommandUndisturbed (setInputs rest s) t := by
  cases x with
  | engine => exact absurd rfl notEngine
  | resetLow => exact absurd rfl notLow
  | read off size =>
    cases (step_read_of_rstn up event).symm.trans taken
    exact (commandUndisturbed_memReadState off size _).reply _
  | write off size v =>
    cases (step_write_of_rstn up event).symm.trans taken
    exact commandUndisturbed_memWrite (s := setInputs rest s) busy
      fun off0 size4 srst => noReset v srst (by rw [off0, size4])
  | resetHigh =>
    cases (step_resetHigh event).symm.trans taken
    have release : releaseReset (setInputs rest s) = setInputs rest s := by
      simp [releaseReset, setInputs, ← up]
    rw [release]
    exact .refl _

/-- Settles O34: the step leaves the command alone, and its write to an operand register is the refused one. -/
theorem hostCannotDisturbARunningCommand : Obligations.HostCannotDisturbARunningCommand := by
  rintro s t x rest busy up event ⟨notEngine, notLow, noReset⟩ taken
  have refused (off : Offset) (v : Word) (hx : x = .write off .four v) (aligned : off.toNat % 4 = 0)
      (lo : 0x020 ≤ off.toNat) (hi : off.toNat < 0x110) : t.err = true ∧ (s.err = false → t.errcode = 4) := by
    subst hx
    rw [step_write_of_rstn up event, memWrite_operand_of_busy aligned lo hi (s := setInputs rest s) busy] at taken
    cases taken
    exact ⟨rfl, fun noError => if_neg (by simp [noError])⟩
  obtain ⟨_, _, _, _, _, rfl⟩ := commandUndisturbed_step busy up event notEngine notLow noReset taken
  exact ⟨rfl, busy, rfl, rfl, rfl, rfl, rfl, refused⟩

end Sys2Proof.Machine
end

section
/-! PROOFS. The 32-bit slices of H, W and MLEN (rule R90). -/

namespace Sys2Proof.Machine

/-! ### Accesses at an offset written as a number -/

theorem memWrite_ofNat {n : Nat} {r : WinReg} (at_r : StandsAt n r) (inWindow : n < 2 ^ 12) (aligned : n % 4 = 0)
    (v : Word) (s : State) : memWrite (BitVec.ofNat 12 n) .four v s = writeReg r v s := by
  have offset : (BitVec.ofNat 12 n).toNat = n := Nat.mod_eq_of_lt inWindow
  exact memWrite_four_of_standsAt (by rwa [offset]) (by rwa [offset]) v s

theorem memReadValue_ofNat {n : Nat} {r : WinReg} (at_r : StandsAt n r) (inWindow : n < 2 ^ 12)
    (aligned : n % 4 = 0) (s : State) : memReadValue (BitVec.ofNat 12 n) .four s = readReg s r := by
  have offset : (BitVec.ofNat 12 n).toNat = n := Nat.mod_eq_of_lt inWindow
  exact memReadValue_four_of_standsAt (by rwa [offset]) (by rwa [offset]) s

/-! ### The bits of a register with one slice written -/

theorem getLsbD_setLo (x : Lane) (v : Word) {b : Nat} (hb : b < 64) :
    (setLo x v).getLsbD b = if b < 32 then v.getLsbD b else x.getLsbD b := by
  rw [setLo, hiHalf, BitVec.getLsbD_append]
  split
  · rfl
  · simp [show b - 32 < 32 by omega, show 32 + (b - 32) = b by omega]

theorem getLsbD_setHi (x : Lane) (v : Word) (b : Nat) :
    (setHi x v).getLsbD b = if b < 32 then x.getLsbD b else v.getLsbD (b - 32) := by
  rw [setHi, loHalf, BitVec.getLsbD_append]
  split
  next lo => simp [lo]
  next => rfl

/-- The mask of word `m` of MLEN has the bits 32m to 32m + 31. -/
theorem getLsbD_mlenMask (m : Fin 4) {b : Nat} (hb : b < 128) :
    ((0xFFFFFFFF : Count) <<< (32 * m.val)).getLsbD b = decide (32 * m.val ≤ b ∧ b < 32 * m.val + 32) := by
  have ones : (0xFFFFFFFF : Count) = (BitVec.allOnes 32).zeroExtend 128 := by decide
  rw [ones, BitVec.getLsbD_shiftLeft, BitVec.zeroExtend_eq_setWidth, BitVec.getLsbD_setWidth, BitVec.getLsbD_allOnes]
  simp only [← decide_not, ← Bool.decide_and, decide_eq_decide]
  omega

/-- A word put in place of word `m` of MLEN fills those bits only. -/
theorem getLsbD_mlenSlice (v : Word) (m : Fin 4) {b : Nat} (hb : b < 128) :
    (v.zeroExtend 128 <<< (32 * m.val)).getLsbD b =
      (decide (32 * m.val ≤ b ∧ b < 32 * m.val + 32) && v.getLsbD (b - 32 * m.val)) := by
  have shifted : (v.zeroExtend 128 <<< (32 * m.val)).getLsbD b =
      (!decide (b < 32 * m.val) && v.getLsbD (b - 32 * m.val)) := by simp [hb]
  rw [shifted]
  by_cases above : 32 * m.val + 32 ≤ b
  · simp [BitVec.getLsbD_of_ge v (b - 32 * m.val) (by omega)]
  · simp [show b < 32 * m.val + 32 by omega, ← decide_not]

theorem getLsbD_setMlenWord (x : Count) (m : Fin 4) (v : Word) {b : Nat} (hb : b < 128) :
    (setMlenWord x m v).getLsbD b =
      if 32 * m.val ≤ b ∧ b < 32 * m.val + 32 then v.getLsbD (b - 32 * m.val) else x.getLsbD b := by
  rw [setMlenWord, BitVec.getLsbD_or, BitVec.getLsbD_and, BitVec.getLsbD_not, getLsbD_mlenMask m hb,
    getLsbD_mlenSlice v m hb]
  split
  next inside => simp [inside, hb]
  next outside => simp [outside, hb]

/-! ### Writing and reading a slice of an idle unit -/

section
variable (s : State) (v : Word) (i : Fin 8) (t : Fin 16) (m : Fin 4)

theorem memWrite_hLo (idle : s.busy = false) : memWrite (BitVec.ofNat 12 (0x040 + 8 * i.val)) .four v s =
    { s with h := s.h.set i.val (setLo s.h[i.val] v) } := by
  rw [memWrite_ofNat (r := .hLo i) rfl (by omega) (by omega)]
  exact writeOperand_of_idle idle _

theorem memWrite_hHi (idle : s.busy = false) : memWrite (BitVec.ofNat 12 (0x044 + 8 * i.val)) .four v s =
    { s with h := s.h.set i.val (setHi s.h[i.val] v) } := by
  rw [memWrite_ofNat (r := .hHi i) rfl (by omega) (by omega)]
  exact writeOperand_of_idle idle _

theorem memWrite_wLo (idle : s.busy = false) : memWrite (BitVec.ofNat 12 (0x080 + 8 * t.val)) .four v s =
    { s with w := s.w.set t.val (setLo s.w[t.val] v) } := by
  rw [memWrite_ofNat (r := .wLo t) rfl (by omega) (by omega)]
  exact writeOperand_of_idle idle _

theorem memWrite_wHi (idle : s.busy = false) : memWrite (BitVec.ofNat 12 (0x084 + 8 * t.val)) .four v s =
    { s with w := s.w.set t.val (setHi s.w[t.val] v) } := by
  rw [memWrite_ofNat (r := .wHi t) rfl (by omega) (by omega)]
  exact writeOperand_of_idle idle _

theorem memWrite_mlen (idle : s.busy = false) : memWrite (BitVec.ofNat 12 (0x100 + 4 * m.val)) .four v s =
    { s with mlen := setMlenWord s.mlen m v } := by
  rw [memWrite_ofNat (r := .mlen m) rfl (by omega) (by omega)]
  exact writeOperand_of_idle idle _

end

/-- Settles O41: each offset reads and, in an idle unit, writes its slice; a busy unit refuses the write. -/
theorem wideRegistersAreWrittenInHalves : Obligations.WideRegistersAreWrittenInHalves := by
  refine ⟨fun s i v idle => ?hWrite, fun s t v idle => ?wWrite, fun s m v idle => ?mlenWrite,
    fun s i => ⟨memReadValue_ofNat (r := .hLo i) rfl (by omega) (by omega) s,
      memReadValue_ofNat (r := .hHi i) rfl (by omega) (by omega) s⟩,
    fun s t => ⟨memReadValue_ofNat (r := .wLo t) rfl (by omega) (by omega) s,
      memReadValue_ofNat (r := .wHi t) rfl (by omega) (by omega) s⟩,
    fun s m => memReadValue_ofNat (r := .mlen m) rfl (by omega) (by omega) s,
    fun s off v busy aligned lo hi => memWrite_operand_of_busy aligned (by omega) hi busy v⟩
  case hWrite =>
    exact ⟨_, _, memWrite_hLo s v i idle, memWrite_hHi s v i idle, fun _ => getLsbD_setLo _ v,
      fun b _ => getLsbD_setHi _ v b⟩
  case wWrite =>
    exact ⟨_, _, memWrite_wLo s v t idle, memWrite_wHi s v t idle, fun _ => getLsbD_setLo _ v,
      fun b _ => getLsbD_setHi _ v b⟩
  case mlenWrite => exact ⟨_, memWrite_mlen s v m idle, fun _ => getLsbD_setMlenWord _ m v⟩

end Sys2Proof.Machine
end

section
/-! SUPPORT. The decoder by fields: its mask and match test as a test of the five fields of the word, what it makes of
the word of any command, and which words of a defined opcode it rejects (rules R131–R138). -/

namespace Sys2Proof

theorem fieldsOf_opc_toNat (v : Word) : (fieldsOf v).opc.toNat = v.toNat % 2 ^ 8 := by
  simp [fieldsOf]

theorem fieldsOf_rd_toNat (v : Word) : (fieldsOf v).rd.toNat = v.toNat / 2 ^ 8 % 2 ^ 4 := by
  simp [fieldsOf, Nat.shiftRight_eq_div_pow]

theorem fieldsOf_rs1_toNat (v : Word) : (fieldsOf v).rs1.toNat = v.toNat / 2 ^ 12 % 2 ^ 4 := by
  simp [fieldsOf, Nat.shiftRight_eq_div_pow]

theorem fieldsOf_rs2_toNat (v : Word) : (fieldsOf v).rs2.toNat = v.toNat / 2 ^ 16 % 2 ^ 4 := by
  simp [fieldsOf, Nat.shiftRight_eq_div_pow]

theorem fieldsOf_rsvd_toNat (v : Word) : (fieldsOf v).rsvd.toNat = v.toNat / 2 ^ 20 := by
  have := v.isLt
  simp only [fieldsOf, BitVec.extractLsb'_toNat, Nat.shiftRight_eq_div_pow]
  omega

theorem Command.word_inj {c d : Command} : c.word = d.word ↔ c = d :=
  ⟨fun h => by rw [← fieldsOf_word c, h, fieldsOf_word], congrArg _⟩

/-- Masking a command word masks its fields. -/
theorem Command.word_and_word (c m : Command) :
    c.word &&& m.word =
      Command.word ⟨c.opc &&& m.opc, c.rd &&& m.rd, c.rs1 &&& m.rs1, c.rs2 &&& m.rs2, c.rsvd &&& m.rsvd⟩ := by
  rw [Command.word, Command.word, BitVec.and_append, BitVec.and_append, BitVec.and_append, BitVec.and_append]
  rfl

/-- The OPC byte of an opcode (rule R134). -/
def Opcode.byte (op : Opcode) : BitVec 8 := op.pattern.extractLsb' 0 8

/-- Which register fields a command of the opcode uses (rule R134). -/
def Opcode.uses : Opcode → FieldUse
  | .nop | .sinit | .scomp => ⟨false, false, false⟩
  | .fzero | .fone | .fload => ⟨true, false, false⟩
  | .fstore => ⟨false, true, false⟩
  | .fadd | .fsub | .fmul => ⟨true, true, true⟩
  | .fsqr | .finv => ⟨true, true, false⟩

/-- The mask bits of a register field: all of them where a command does not use the field (rules R134, R138). -/
def unusedMask (used : Bool) : BitVec 4 := if used then 0 else BitVec.allOnes 4

theorem Opcode.fieldUse_byte (op : Opcode) : fieldUse op.byte = some op.uses := by
  cases op <;> rfl

theorem Opcode.named_byte (op : Opcode) : Opcode.named op.byte = some op := by
  cases op <;> rfl

theorem Opcode.pattern_eq_word (op : Opcode) : op.pattern = Command.word ⟨op.byte, 0, 0, 0, 0⟩ := by
  cases op <;> rfl

theorem Opcode.mask_eq_word (op : Opcode) : op.mask =
    Command.word ⟨BitVec.allOnes 8, unusedMask op.uses.rd, unusedMask op.uses.rs1, unusedMask op.uses.rs2,
      BitVec.allOnes 12⟩ := by
  cases op <;> rfl

theorem and_unusedMask_eq_zero {used : Bool} {x : BitVec 4} :
    x &&& unusedMask used = 0 ↔ (used = false → x = 0) := by
  cases used with
  | false => simp only [unusedMask, Bool.false_eq_true, if_false, BitVec.and_allOnes, forall_const]
  | true => simp [unusedMask]

/-- The mask and match test of rule R134 is the test of the opcode, the reserved bits and the unused fields. -/
theorem and_mask_eq_pattern_iff (v : Word) (op : Opcode) : v &&& op.mask = op.pattern ↔
    (fieldsOf v).opc = op.byte ∧ (op.uses.rd = false → (fieldsOf v).rd = 0) ∧
      (op.uses.rs1 = false → (fieldsOf v).rs1 = 0) ∧ (op.uses.rs2 = false → (fieldsOf v).rs2 = 0) ∧
      (fieldsOf v).rsvd = 0 := by
  conv_lhs => rw [← word_fieldsOf v, op.mask_eq_word, op.pattern_eq_word, Command.word_and_word, Command.word_inj,
    Command.mk.injEq]
  simp only [and_unusedMask_eq_zero, BitVec.and_allOnes]

/-- The opcode of an instruction. -/
def Instr.opcode : Instr → Opcode
  | .nop => .nop
  | .fzero _ => .fzero
  | .fone _ => .fone
  | .fload _ => .fload
  | .fstore _ => .fstore
  | .fadd _ _ _ => .fadd
  | .fsub _ _ _ => .fsub
  | .fmul _ _ _ => .fmul
  | .fsqr _ _ => .fsqr
  | .finv _ _ => .finv
  | .sinit => .sinit
  | .scomp => .scomp

theorem Instr.command_opc (i : Instr) : i.command.opc = i.opcode.byte := by
  cases i <;> rfl

theorem Instr.instr_opcode_command (i : Instr) : i.opcode.instr i.command = i := by
  cases i <;> rfl

/-- An instruction's word passes the mask and match test of its row. -/
theorem encode_and_mask (i : Instr) : encode i &&& i.opcode.mask = i.opcode.pattern := by
  rw [and_mask_eq_pattern_iff, encode, fieldsOf_word]
  refine ⟨i.command_opc, ?_⟩
  cases i <;> simp [Instr.command, Instr.opcode, Opcode.uses]

/-- The formula of rule R135 for the word of any command. -/
theorem encode_eq_ofNat (i : Instr) : encode i = BitVec.ofNat 32 (i.command.opc.toNat + i.command.rd.toNat * 2 ^ 8 +
    i.command.rs1.toNat * 2 ^ 12 + i.command.rs2.toNat * 2 ^ 16 + i.command.rsvd.toNat * 2 ^ 20) := by
  rw [← Command.word_toNat, BitVec.ofNat_toNat, BitVec.setWidth_eq, encode]

/-- The decoder reads the word of a command back (rules R135, R136). -/
theorem decode_encode (i : Instr) : decode (encode i) = .ok i := by
  have opc : (encode i).extractLsb' 0 8 = i.opcode.byte :=
    (congrArg Command.opc (fieldsOf_word i.command)).trans i.command_opc
  simp only [decode, opc, Opcode.named_byte, encode_and_mask, if_true]
  rw [encode, fieldsOf_word, i.instr_opcode_command]

/-- A word of a defined opcode that fails its mask and match test is E_RSVD (rules R136, R138). -/
theorem decode_eq_rsvd {v : Word} {op : Opcode} (opc : (fieldsOf v).opc = op.byte)
    (fails : v &&& op.mask ≠ op.pattern) : decode v = .error .rsvd := by
  have named : Opcode.named (v.extractLsb' 0 8) = some op := (congrArg _ opc).trans op.named_byte
  simp only [decode, named, if_neg fails]

/-- The same by the word as a number: its bits from 20 up and its unused register fields are not all 0. -/
theorem decode_eq_rsvd_of_toNat {v : Word} (op : Opcode) (opc : v.toNat % 2 ^ 8 = op.byte.toNat)
    (nonzero : (op.uses.rd = false → v.toNat / 2 ^ 8 % 2 ^ 4 = 0) →
      (op.uses.rs1 = false → v.toNat / 2 ^ 12 % 2 ^ 4 = 0) →
      (op.uses.rs2 = false → v.toNat / 2 ^ 16 % 2 ^ 4 = 0) → v.toNat / 2 ^ 20 ≠ 0) : decode v = .error .rsvd := by
  refine decode_eq_rsvd (op := op) (BitVec.eq_of_toNat_eq ((fieldsOf_opc_toNat v).trans opc)) fun passes => ?_
  rw [and_mask_eq_pattern_iff] at passes
  simp only [← BitVec.toNat_inj, fieldsOf_rd_toNat, fieldsOf_rs1_toNat, fieldsOf_rs2_toNat,
    fieldsOf_rsvd_toNat] at passes
  obtain ⟨-, rd, rs1, rs2, rsvd⟩ := passes
  exact nonzero rd rs1 rs2 rsvd

/-- A word whose opcode uses RD alone is E_RSVD when it has a bit from 12 up. -/
theorem decode_eq_rsvd_of_rd_only {v : Word} (op : Opcode) (uses : op.uses = ⟨true, false, false⟩)
    (opc : v.toNat % 2 ^ 8 = op.byte.toNat) (nonzero : v.toNat / 2 ^ 12 ≠ 0) : decode v = .error .rsvd := by
  refine decode_eq_rsvd_of_toNat op opc fun _ rs1 rs2 rsvd => nonzero ?_
  have := rs1 (by rw [uses])
  have := rs2 (by rw [uses])
  omega

end Sys2Proof
end

section
/-! SUPPORT. Byte strings as integers, and the DATA buffer as one of them (rules R11, R88, R165). -/

namespace Sys2Proof.Machine

open Sys2Proof.Config

theorem P_lt : P < 2 ^ 255 := by decide

/-- `LE` of a string given byte by byte is the sum of its bytes at their weights (rule R11). -/
theorem leValue_map_finRange {n : Nat} (b : Fin n → Byte) :
    leValue ((List.finRange n).map b) = ∑ j : Fin n, (b j).toNat * 2 ^ (8 * j.val) := by
  induction n with
  | zero => rfl
  | succ n ih =>
    rw [List.finRange_succ, List.map_cons, List.map_map, leValue, ih, Fin.sum_univ_succ, Finset.mul_sum]
    simp only [Function.comp_apply, Fin.val_succ, Fin.val_zero, Nat.mul_zero, pow_zero, Nat.mul_one, Nat.mul_succ,
      pow_add]
    congr 1
    exact Finset.sum_congr rfl fun j _ => by ring

theorem dataValue_eq_sum (data : Vector Word 8) :
    dataValue data = ∑ j : Fin 32, (dataByte data j).toNat * 2 ^ (8 * j.val) :=
  leValue_map_finRange _

/-- `LE` undoes `LEbytes` (rule R11). -/
theorem leValue_leBytes (n v : Nat) : leValue (leBytes n v) = v % 2 ^ (8 * n) := by
  induction n generalizing v with
  | zero => simp [leBytes, leValue, Nat.mod_one]
  | succ n ih => rw [leBytes, leValue, ih, BitVec.toNat_ofNat, Nat.mul_succ, Nat.add_comm (8 * n), pow_add,
      Nat.mod_mul]

/-- Byte `j` of `LEbytes_n(v)` is `v`'s byte of weight `2^(8j)` (rule R11). -/
theorem leBytes_eq_map_finRange (n v : Nat) :
    leBytes n v = (List.finRange n).map fun j => BitVec.ofNat 8 (v / 2 ^ (8 * j.val)) := by
  induction n generalizing v with
  | zero => rfl
  | succ n ih =>
    rw [leBytes, ih, List.finRange_succ, List.map_cons, List.map_map]
    congr 1
    · simp
    · refine List.map_congr_left fun j _ => ?_
      rw [Function.comp_apply, Fin.val_succ, Nat.div_div_eq_div_mul, ← pow_add, Nat.mul_succ, Nat.add_comm 8]

/-- The byte at bit `b` of a 32-bit word is the byte at bit `b` of the number the word was made of. -/
theorem extractLsb'_ofNat_eight (x : Nat) {b : Nat} (hb : b + 8 ≤ 32) :
    (BitVec.ofNat 32 x).extractLsb' b 8 = BitVec.ofNat 8 (x / 2 ^ b) := by
  apply BitVec.eq_of_getLsbD_eq
  intro i hi
  simp only [BitVec.getLsbD_extractLsb', BitVec.getLsbD_ofNat, Nat.testBit_div_two_pow]
  simp [hi, show i + b < 32 by omega, Nat.add_comm b]

/-- Byte `j` of the buffer of an integer is the integer's byte of weight `2^(8j)` (rules R88, R165). -/
theorem dataByte_dataOf (c : Nat) (j : Fin 32) : dataByte (dataOf c) j = BitVec.ofNat 8 (c / 2 ^ (8 * j.val)) := by
  have weight : 32 * (j.val / 4) + 8 * (j.val % 4) = 8 * j.val := by omega
  simp only [dataByte, dataOf, Vector.getElem_ofFn]
  rw [extractLsb'_ofNat_eight _ (by omega), Nat.div_div_eq_div_mul, ← pow_add, weight]

theorem dataBytes_dataOf (c : Nat) : dataBytes (dataOf c) = leBytes 32 c := by
  rw [leBytes_eq_map_finRange, dataBytes, funext (dataByte_dataOf c)]

/-- The buffer of an integer denotes it (rules R88, R165). -/
theorem dataValue_dataOf {c : Nat} (h : c < 2 ^ 256) : dataValue (dataOf c) = c := by
  rw [dataValue, dataBytes_dataOf, leValue_leBytes, Nat.mod_eq_of_lt h]

/-- A field value fits 255 bits, so the top bit of its last byte is 0 (rule R165). -/
theorem dataByte_dataOf_top_bit (a : Fp) : (dataByte (dataOf a.val) 31).getLsbD 7 = false := by
  have small : a.val / 2 ^ 248 < 2 ^ 7 := Nat.div_lt_of_lt_mul ((a.isLt.trans P_lt).trans_eq (by norm_num))
  rw [dataByte_dataOf]
  exact Nat.testBit_lt_two_pow ((Nat.mod_le _ _).trans_lt small)

theorem dataValue_dataOf_fp (a : Fp) : dataValue (dataOf a.val) = a.val :=
  dataValue_dataOf ((a.isLt.trans P_lt).trans (by norm_num))

theorem dataValue_eq_low_add_top (data : Vector Word 8) : dataValue data =
    ∑ j : Fin 31, (dataByte data j.castSucc).toNat * 2 ^ (8 * j.val) + (dataByte data 31).toNat * 2 ^ 248 :=
  (dataValue_eq_sum data).trans (Fin.sum_univ_castSucc (n := 31) _)

/-- Dropping bit 255 drops the top bit of byte 31 and nothing else (rule R163). -/
theorem dataValue_mod_congr {d d' : Vector Word 8} (low : ∀ j : Fin 32, j.val < 31 → dataByte d j = dataByte d' j)
    (top : (dataByte d 31).toNat % 128 = (dataByte d' 31).toNat % 128) :
    dataValue d % 2 ^ 255 = dataValue d' % 2 ^ 255 := by
  have lowBytes (j : Fin 31) : dataByte d j.castSucc = dataByte d' j.castSucc := low j.castSucc j.isLt
  have topByte : (dataByte d 31).toNat * 2 ^ 248 ≡ (dataByte d' 31).toNat * 2 ^ 248 [MOD 128 * 2 ^ 248] :=
    Nat.ModEq.mul_right' _ top
  simp only [dataValue_eq_low_add_top, lowBytes]
  exact Nat.ModEq.add_left _ topByte

end Sys2Proof.Machine
end

section
/-! SUPPORT. The completions of NOP, FZERO, FONE, FLOAD and FSTORE as one update each, and what a completion leaves
unchanged (rules R160–R165, R271). -/

namespace Sys2Proof.Machine

theorem completeWord_of_decode {v : Word} {i : Instr} (h : decode v = .ok i) (s : State) :
    completeWord v s = exec i s := by
  simp only [completeWord, h]

theorem completionFrame_complete (s : State) : CompletionFrame s (complete s) :=
  ⟨rfl, rfl, rfl, rfl, rfl, rfl, rfl, rfl, rfl, rfl⟩

/-- A command that writes `F[rd]` and completes keeps to the frame of such a command. -/
theorem fieldFrame_complete_writeF (rd : Reg) (r : FReg) (s : State) : FieldFrame rd s (complete (writeF rd r s)) :=
  ⟨fun j hj => readF_writeF_ne rd j r s hj, rfl, rfl, rfl, rfl, completionFrame_complete (writeF rd r s)⟩

theorem readF_complete_writeF (rd : Reg) (r : FReg) (s : State) : readF (complete (writeF rd r s)) rd = r :=
  readF_writeF_self rd r s

/-! ### The meanings -/

theorem exec_nop (s : State) : exec .nop s = .next (complete s) := rfl

theorem exec_fzero (rd : Reg) (s : State) : exec (.fzero rd) s = .next (complete (writeF rd ⟨fpZero, 0⟩ s)) := rfl

theorem exec_fone (rd : Reg) (s : State) : exec (.fone rd) s = .next (complete (writeF rd ⟨fpOne, 0⟩ s)) := rfl

theorem exec_fload (rd : Reg) (s : State) :
    exec (.fload rd) s = .next (complete (writeF rd ⟨fpOfNat (dataValue s.data % 2 ^ 255), 0⟩ s)) := rfl

theorem exec_fstore (rs1 : Reg) (s : State) :
    exec (.fstore rs1) s = .next (complete { s with data := dataOf (readF s rs1).value.val }) := rfl

@[simp] theorem fpZero_val : fpZero.val = 0 := rfl

@[simp] theorem fpOne_val : fpOne.val = 1 := Nat.mod_eq_of_lt (by decide)

end Sys2Proof.Machine
end

section
/-! PROOFS. NOP, FZERO, FONE, FLOAD and FSTORE (40_field_const_io.md). -/

namespace Sys2Proof.Machine

theorem decode_zero : decode 0 = .ok .nop := decode_encode .nop

/-- Settles O10: the write of 0 to CMD is accepted, and the engine's turn completes the NOP it encodes. -/
theorem nopRule : Obligations.NopRule := by
  refine ⟨fun s => ⟨_, exec_nop s, rfl, rfl, rfl, rfl, rfl, completionFrame_complete s⟩, decode_zero,
    fun v opc nonzero => ?rejected, ?fromReset⟩
  case rejected =>
    refine decode_eq_rsvd_of_toNat .nop opc fun rd rs1 rs2 rsvd => nonzero ?_
    have := rd rfl
    have := rs1 rfl
    have := rs2 rfl
    omega
  case fromReset =>
    refine ⟨accept 0 { State.reset with inputs := [.engine] }, _, ?_, rfl, ?_, rfl, rfl⟩
    · rw [step_write_of_rstn rfl rfl, memWrite_cmd_of_idle rfl]
      rfl
    · rw [step_engine rfl, engineTurn_pending (v := 0) rfl, completeWord_of_decode decode_zero, exec_nop]
      rfl

/-- Settles O11: FDEPTH shows the depth written. -/
theorem fzeroRule : Obligations.FzeroRule := by
  refine ⟨fun s rd => ⟨_, exec_fzero rd s, ?value, ?depth, ?fdepth, fieldFrame_complete_writeF rd _ s⟩,
    fun rd => ?word, fun v opc nonzero => decode_eq_rsvd_of_rd_only .fzero rfl opc nonzero⟩
  case value => rw [readF_complete_writeF, fpZero_val]
  case depth => rw [readF_complete_writeF]
  case fdepth =>
    apply BitVec.eq_of_toNat_eq
    rw [fdepthWord_field, readF_complete_writeF]
    rfl
  case word => simpa [encode_eq_ofNat, Instr.command] using decode_encode (.fzero rd)

theorem dataOf_one : dataOf 1 = #v[0x00000001, 0, 0, 0, 0, 0, 0, 0] := by decide

/-- Settles O12: the constant is 1, and the buffer of 1 is written out. -/
theorem foneRule : Obligations.FoneRule := by
  refine ⟨fun s rd => ⟨_, exec_fone rd s, ?value, ?depth, fieldFrame_complete_writeF rd _ s⟩,
    fun s => ⟨_, _, exec_fone 1 s, exec_fstore 1 _, ?stored⟩, fun rd => ?word,
    fun v opc nonzero => decode_eq_rsvd_of_rd_only .fone rfl opc nonzero⟩
  case value => rw [readF_complete_writeF, fpOne_val]
  case depth => rw [readF_complete_writeF]
  case stored => rw [complete_data, readF_complete_writeF, fpOne_val, dataOf_one]
  case word => simpa [encode_eq_ofNat, Instr.command] using decode_encode (.fone rd)

/-- Settles O13: the buffer is the sum of its weighted bytes, of which the modulus 2^255 drops the topmost bit. -/
theorem floadRule : Obligations.FloadRule := by
  refine ⟨fun s rd => ⟨_, exec_fload rd s, ?value, ?depth, fieldFrame_complete_writeF rd _ s⟩,
    fun s s' rd low top => ⟨_, _, exec_fload rd s, exec_fload rd s', ?sameLoad⟩, fun rd => ?word,
    fun v opc nonzero => decode_eq_rsvd_of_rd_only .fload rfl opc nonzero⟩
  case value => rw [readF_complete_writeF, fpOfNat_val, dataValue_eq_sum]
  case depth => rw [readF_complete_writeF]
  case sameLoad => rw [readF_complete_writeF, readF_complete_writeF, dataValue_mod_congr low top]
  case word => simpa [encode_eq_ofNat, Instr.command] using decode_encode (.fload rd)

/-- Settles O14: the buffer of an integer holds its bytes and denotes it. -/
theorem fstoreRule : Obligations.FstoreRule := by
  refine ⟨fun s rs1 => ⟨_, exec_fstore rs1 s, fun j => ?byte, dataByte_dataOf_top_bit _, rfl, rfl, rfl, rfl,
      completionFrame_complete { s with data := _ }⟩,
    fun s r => ⟨_, _, exec_fload r s, exec_fstore r _, ?loadStore⟩, fun rs1 => ?word,
    fun v opc nonzero => ?rejected⟩
  case byte => rw [complete_data, dataByte_dataOf, BitVec.toNat_ofNat]
  case loadStore => rw [complete_data, readF_complete_writeF, dataValue_dataOf_fp, fpOfNat_val]
  case word => simpa [encode_eq_ofNat, Instr.command] using decode_encode (.fstore rs1)
  case rejected =>
    refine decode_eq_rsvd_of_toNat .fstore opc fun rd _ rs2 rsvd => ?_
    have := rd rfl
    have := rs2 rfl
    omega

end Sys2Proof.Machine
end

section
/-! PROOFS. FLOAD's split into limbs (rule R164). -/

namespace Sys2Proof.Machine

open Sys2Proof.Config

/-- Limb `k + 1` begins where limb `k` ends (rules R38, R39). -/
theorem limbWeight_succ (k : Nat) : limbWeight (k + 1) = limbWeight k + limbWidth k := by
  unfold limbWeight limbWidth
  split <;> omega

theorem limbWidth_le (k : Nat) : limbWidth k ≤ 26 := by
  unfold limbWidth
  split <;> omega

theorem limbSum_eq_sum (l : Limbs) : limbSum l = ∑ i : Fin nLimb, l[i.val] * 2 ^ limbWeight i.val :=
  (Fin.sum_univ_def _).symm

/-- The bits of limb `k` in the integer `n` (rule R164). -/
def limbBits (n k : Nat) : Nat := n / 2 ^ limbWeight k % 2 ^ limbWidth k

theorem limbsOfNat_getElem (n : Nat) (i : Fin nLimb) : (limbsOfNat n)[i.val] = (limbBits n i.val : Int) := by
  simp [limbsOfNat, limbBits]

theorem limbBits_lt (n k : Nat) : limbBits n k < 2 ^ 26 :=
  (Nat.mod_lt _ (Nat.two_pow_pos _)).trans_le (Nat.pow_le_pow_right (by decide) (limbWidth_le k))

/-- The first `k` limbs hold the bits below the weight of limb `k`. -/
theorem sum_limbBits (n k : Nat) :
    ∑ i ∈ Finset.range k, limbBits n i * 2 ^ limbWeight i = n % 2 ^ limbWeight k := by
  induction k with
  | zero => simp [limbWeight, Nat.mod_one]
  | succ k ih =>
    rw [Finset.sum_range_succ, ih, limbWeight_succ, pow_add, Nat.mod_mul, limbBits, Nat.mul_comm (2 ^ limbWeight k)]

/-- The split loses nothing of an integer below 2^255. -/
theorem limbSum_limbsOfNat {n : Nat} (h : n < 2 ^ 255) : limbSum (limbsOfNat n) = n := by
  have split : ∑ i : Fin nLimb, limbBits n i.val * 2 ^ limbWeight i.val = n := by
    rw [Fin.sum_univ_eq_sum_range fun i => limbBits n i * 2 ^ limbWeight i, sum_limbBits]
    exact Nat.mod_eq_of_lt h
  rw [limbSum_eq_sum]
  simp only [limbsOfNat_getElem]
  exact_mod_cast split

theorem fpOfInt_natCast (n : Nat) : fpOfInt n = fpOfNat n := by
  rw [fpOfInt, ← Int.natCast_emod, Int.toNat_natCast]
  exact fpOfNat_val_self (fpOfNat n)

/-- Settles O50: the bits of the ten limbs add up to the integer, and each limb has at most 26 of them. -/
theorem loadedLimbsRepresentTheValue : Obligations.LoadedLimbsRepresentTheValue := by
  intro n hn
  refine ⟨⟨?value, fun i => ?bound⟩, fun i => ?limb⟩
  case value => rw [limbValue, limbSum_limbsOfNat hn, fpOfInt_natCast]
  case bound =>
    rw [limbsOfNat_getElem, Int.natAbs_natCast]
    exact (limbBits_lt n i.val).le.trans (by decide : 2 ^ 26 ≤ limbBound 0)
  case limb =>
    rw [limbsOfNat_getElem]
    have := limbBits_lt n i.val
    exact ⟨by simp [limbBits], by omega, by omega⟩

end Sys2Proof.Machine
end

section
/-! SUPPORT. FADD, FSUB, FMUL, FSQR and FINV as one update each, the words they reject, and the inverse in the field
(rules R138, R190–R200). -/

namespace Sys2Proof.Machine

open Sys2Proof.Config

/-! ### Rejections -/

theorem reject_eq_rejectedState (e : ErrCode) (s : State) : reject e s = rejectedState e.code s :=
  reject_eq e s

theorem completeWord_of_decode_error {v : Word} {e : DecodeError} (h : decode v = .error e) (s : State) :
    completeWord v s = .next (rejectedState (illegalCode e).code s) := by
  simp only [completeWord, h, reject_eq_rejectedState]

/-- Bits 31:20 are reserved in a word of every opcode (rule R138). -/
theorem decode_eq_rsvd_of_reserved {v : Word} (op : Opcode) (opc : v.toNat % 2 ^ 8 = op.byte.toNat)
    (nonzero : v.toNat / 2 ^ 20 ≠ 0) : decode v = .error .rsvd :=
  decode_eq_rsvd_of_toNat op opc fun _ _ _ => nonzero

/-- A word whose opcode does not use RS2 is E_RSVD when it has a bit from 16 up. -/
theorem decode_eq_rsvd_of_rs2_unused {v : Word} (op : Opcode) (unused : op.uses.rs2 = false)
    (opc : v.toNat % 2 ^ 8 = op.byte.toNat) (nonzero : v.toNat / 2 ^ 16 ≠ 0) : decode v = .error .rsvd := by
  refine decode_eq_rsvd_of_toNat op opc fun _ _ rs2 rsvd => nonzero ?_
  have := rs2 unused
  omega

/-! ### The meanings -/

section
variable {op : Fp → Fp → Fp} {rd rs1 rs2 : Reg} {s : State}

/-- On operands of depth 0 the shared meaning of FADD and FSUB writes at depth 1 (rule R190). -/
theorem addSub_of_depth_zero (h1 : (readF s rs1).depth = 0) (h2 : (readF s rs2).depth = 0) :
    addSub op rd rs1 rs2 s = complete (writeF rd ⟨op (readF s rs1).value (readF s rs2).value, 1⟩ s) := by
  simp only [addSub, depthTag_sumDepth_zero h1 h2]

/-- With an operand of depth 1 it is the rejection with E_DEPTH (rules R190, R275). -/
theorem addSub_of_depth_one (h : (readF s rs1).depth = 1 ∨ (readF s rs2).depth = 1) :
    addSub op rd rs1 rs2 s = rejectedState 3 s := by
  simp only [addSub, depthTag_sumDepth_one h, reject_eq_rejectedState, ErrCode.code]

end

section
variable (rd rs1 rs2 : Reg) (s : State)

theorem exec_fadd : exec (.fadd rd rs1 rs2) s = .next (addSub fpAdd rd rs1 rs2 s) := rfl

theorem exec_fsub : exec (.fsub rd rs1 rs2) s = .next (addSub fpSub rd rs1 rs2 s) := rfl

theorem exec_fmul : exec (.fmul rd rs1 rs2) s =
    .next (complete (writeF rd ⟨fpMul (readF s rs1).value (readF s rs2).value, 0⟩ s)) := rfl

theorem exec_fsqr : exec (.fsqr rd rs1) s =
    .next (complete (writeF rd ⟨fpSqr (readF s rs1).value, 0⟩ s)) := rfl

theorem exec_finv : exec (.finv rd rs1) s =
    .next (complete (writeF rd ⟨fpInv (readF s rs1).value, 0⟩ s)) := rfl

/-- FMUL of a register with itself is FSQR of it (rule R198). -/
theorem exec_fmul_self : exec (.fmul rd rs1 rs1) s = exec (.fsqr rd rs1) s := by
  rw [exec_fmul, exec_fsqr, fpSqr_eq_fpMul]

end

/-! ### The values -/

/-- FDEPTH shows a register of depth 1 in the lower bit of its field (rule R51). -/
theorem fdepthWord_lower_bit {s : State} {i : Reg} (h : (readF s i).depth = 1) :
    (fdepthWord s).getLsbD (2 * i.val) = true := by
  have field : ((fdepthWord s).extractLsb' (2 * i.val) 2).getLsbD 0 = (fdepthWord s).getLsbD (2 * i.val) := by simp
  rw [← field, BitVec.getLsbD, fdepthWord_field, h]
  rfl

theorem fpMul_of_val_eq_one {a b : Fp} (h : b.val = 1) : fpMul a b = a := by
  rw [fpMul, h, Nat.mul_one, fpOfNat_val_self]

/-- Two numbers that add up to the modulus have one square: `a² + b(a + b) = b² + a(a + b)`. -/
theorem mul_self_mod_of_add_eq {a b m : Nat} (h : a + b = m) : a * a % m = b * b % m := by
  subst h
  calc a * a % (a + b) = (a * a + b * (a + b)) % (a + b) := (Nat.add_mul_mod_self_right _ _ _).symm
    _ = (b * b + a * (a + b)) % (a + b) := by ring_nf
    _ = b * b % (a + b) := Nat.add_mul_mod_self_right _ _ _

/-- A value and its negative have one square. -/
theorem fpSqr_eq_of_add_eq_P {a b : Fp} (h : a.val + b.val = P) : fpSqr a = fpSqr b :=
  Fin.ext (mul_self_mod_of_add_eq h)

/-- `p` is a prime that divides no nonzero value below it. -/
theorem coprime_P_of_val_ne_zero {a : Fp} (h : a.val ≠ 0) : Nat.Coprime P a.val :=
  Nat.coprime_of_lt_prime h a.isLt P_prime

/-- Fermat's little theorem at `p` (rule R200). -/
theorem pow_P_sub_one_mod {a : Fp} (h : a.val ≠ 0) : a.val ^ (P - 1) % P = 1 := by
  have fermat := Nat.ModEq.pow_totient (coprime_P_of_val_ne_zero h).symm
  rw [Nat.totient_prime P_prime, Nat.ModEq, Nat.mod_eq_of_lt P_prime.one_lt] at fermat
  exact fermat

/-- A nonzero value times its inverse is 1. -/
theorem mul_fpInv_val_mod {a : Fp} (h : a.val ≠ 0) : a.val * (fpInv a).val % P = 1 := by
  have exponent : P - 2 + 1 = P - 1 := by have := P_prime.two_le; omega
  rw [fpInv_val, Nat.mul_mod_mod, ← pow_succ', exponent, pow_P_sub_one_mod h]

/-- The inverse is the only value that times `a` is 1. -/
theorem fpInv_val_of_mul_mod_eq_one {a : Fp} {b : Nat} (hb : b < P) (h : a.val * b % P = 1) : (fpInv a).val = b := by
  have nonzero : a.val ≠ 0 := fun ha => by simp [ha] at h
  have products : a.val * (fpInv a).val ≡ a.val * b [MOD P] := (mul_fpInv_val_mod nonzero).trans h.symm
  exact (products.cancel_left_of_coprime (coprime_P_of_val_ne_zero nonzero)).eq_of_lt_of_lt (fpInv a).isLt hb

theorem fpInv_val_of_val_eq_zero {a : Fp} (h : a.val = 0) : (fpInv a).val = 0 := by
  have exponent : 0 < P - 2 := by decide
  simp only [fpInv_val, h, Nat.zero_pow exponent, Nat.zero_mod]

end Sys2Proof.Machine
end

section
/-! PROOFS. FADD, FSUB, FMUL, FSQR and FINV, and which commands raise E_DEPTH (41_field_arith.md). -/

namespace Sys2Proof.Machine

open Sys2Proof.Config

/-- Settles O9: FADD and FSUB share the depth check, and the other ten commands have none. -/
theorem onlyAddAndSubRaiseDepthErrors : Obligations.OnlyAddAndSubRaiseDepthErrors := by
  refine ⟨fun s rd rs1 rs2 i isAddSub => ?addSub, fun v s opc nonzero => ?reserved, fun s i other => ?others⟩
  case addSub =>
    obtain ⟨op, meaning⟩ : ∃ op, exec i s = .next (addSub op rd rs1 rs2 s) := by
      rcases isAddSub with rfl | rfl
      · exact ⟨fpAdd, exec_fadd rd rs1 rs2 s⟩
      · exact ⟨fpSub, exec_fsub rd rs1 rs2 s⟩
    refine ⟨fun one => by rw [meaning, addSub_of_depth_one one], fun ⟨h1, h2⟩ => ⟨_, meaning, ?_⟩⟩
    rw [addSub_of_depth_zero h1 h2, readF_complete_writeF]
    exact ⟨rfl, rfl, rfl⟩
  case reserved =>
    have rejected : decode v = .error .rsvd := by
      rcases opc with opc | opc
      · exact decode_eq_rsvd_of_reserved .fadd opc nonzero
      · exact decode_eq_rsvd_of_reserved .fsub opc nonzero
    exact completeWord_of_decode_error rejected s
  case others =>
    cases i with
    | fadd rd rs1 rs2 => exact absurd rfl (other rd rs1 rs2).1
    | fsub rd rs1 rs2 => exact absurd rfl (other rd rs1 rs2).2
    | nop | fzero | fone | fload | fstore | fmul | fsqr | finv | sinit | scomp => exact ⟨_, rfl, rfl, rfl⟩

/-- Settles O15: the depth check decides between the sum and the rejection. -/
theorem faddRule : Obligations.FaddRule := by
  refine ⟨fun s rd rs1 rs2 h1 h2 => ⟨_, (exec_fadd rd rs1 rs2 s).trans (congrArg _ (addSub_of_depth_zero h1 h2)),
      ?value, ?depth, fdepthWord_lower_bit ?shown, fieldFrame_complete_writeF rd _ s⟩,
    fun s rd rs1 rs2 one => (exec_fadd rd rs1 rs2 s).trans (congrArg _ (addSub_of_depth_one one)),
    fun rd rs1 rs2 => ?word, fun v opc nonzero => decode_eq_rsvd_of_reserved .fadd opc nonzero⟩
  case value => rw [readF_complete_writeF, fpAdd_val]
  case depth | shown => rw [readF_complete_writeF]
  case word => simpa [encode_eq_ofNat, Instr.command] using decode_encode (.fadd rd rs1 rs2)

/-- Settles O16: the depth check decides between the difference and the rejection. -/
theorem fsubRule : Obligations.FsubRule := by
  refine ⟨fun s rd rs1 rs2 h1 h2 => ⟨_, (exec_fsub rd rs1 rs2 s).trans (congrArg _ (addSub_of_depth_zero h1 h2)),
      ?value, ?depth, fieldFrame_complete_writeF rd _ s⟩,
    fun s rd rs1 rs2 one => (exec_fsub rd rs1 rs2 s).trans (congrArg _ (addSub_of_depth_one one)),
    fun rd rs1 rs2 => ?word, fun v opc nonzero => decode_eq_rsvd_of_reserved .fsub opc nonzero⟩
  case value => rw [readF_complete_writeF, fpSub_val]
  case depth => rw [readF_complete_writeF]
  case word => simpa [encode_eq_ofNat, Instr.command] using decode_encode (.fsub rd rs1 rs2)

/-- Settles O17: 1 is neutral, and FSQR is FMUL of its operand with itself. -/
theorem fmulRule : Obligations.FmulRule := by
  refine ⟨fun s rd rs1 rs2 => ⟨_, exec_fmul rd rs1 rs2 s, ?value, ?depth, fieldFrame_complete_writeF rd _ s,
      fun one => ?timesOne⟩,
    fun s rd rs1 => exec_fmul_self rd rs1 s, fun rd rs1 rs2 => ?word,
    fun v opc nonzero => decode_eq_rsvd_of_reserved .fmul opc nonzero⟩
  case value => rw [readF_complete_writeF, fpMul_val]
  case depth => rw [readF_complete_writeF]
  case timesOne => rw [readF_complete_writeF, fpMul_of_val_eq_one one]
  case word => simpa [encode_eq_ofNat, Instr.command] using decode_encode (.fmul rd rs1 rs2)

/-- Settles O18: FSQR is FMUL of its operand with itself, and squaring loses the sign. -/
theorem fsqrRule : Obligations.FsqrRule := by
  refine ⟨fun s rd rs1 => ⟨_, exec_fsqr rd rs1 s, ?value, ?depth, fieldFrame_complete_writeF rd _ s,
      exec_fmul_self rd rs1 s⟩,
    fun s rd rs1 rs2 negatives => ⟨_, _, exec_fsqr rd rs1 s, exec_fsqr rd rs2 s, ?sameSquare⟩, fun rd rs1 => ?word,
    fun v opc nonzero => decode_eq_rsvd_of_rs2_unused .fsqr rfl opc nonzero⟩
  case value => rw [readF_complete_writeF, fpSqr_eq_fpMul, fpMul_val]
  case depth => rw [readF_complete_writeF]
  case sameSquare => rw [readF_complete_writeF, readF_complete_writeF, fpSqr_eq_of_add_eq_P negatives]
  case word => simpa [encode_eq_ofNat, Instr.command] using decode_encode (.fsqr rd rs1)

/-- Settles O19: Fermat's little theorem gives the inverse, and an inverse is unique, so each constant is checked by its
product. -/
theorem finvRule : Obligations.FinvRule := by
  refine ⟨fun s rd rs1 => ⟨_, exec_finv rd rs1 s, ?_⟩, fun rd rs1 => ?word,
    fun v opc nonzero => decode_eq_rsvd_of_rs2_unused .finv rfl opc nonzero⟩
  case word => simpa [encode_eq_ofNat, Instr.command] using decode_encode (.finv rd rs1)
  rw [readF_complete_writeF]
  refine ⟨fpInv_val _, rfl, fieldFrame_complete_writeF rd _ s, mul_fpInv_val_mod, fpInv_val_of_val_eq_zero,
    fun one => ?one, fun minusOne => ?minusOne, fun two => ?two⟩
  case one => exact fpInv_val_of_mul_mod_eq_one (by decide) (by rw [one]; decide)
  case minusOne => exact fpInv_val_of_mul_mod_eq_one (by decide) (by rw [minusOne]; decide)
  case two => exact fpInv_val_of_mul_mod_eq_one (by decide) (by rw [two]; decide)

end Sys2Proof.Machine
end

section
/-! PROOFS. FADD and FSUB limb by limb (rules R192, R194). -/

namespace Sys2Proof.Machine

open Sys2Proof.Config

theorem limbAdd_getElem (f g : Limbs) (i : Fin nLimb) : (limbAdd f g)[i.val] = f[i.val] + g[i.val] := by
  simp [limbAdd]

theorem limbSub_getElem (f g : Limbs) (i : Fin nLimb) : (limbSub f g)[i.val] = f[i.val] - g[i.val] := by
  simp [limbSub]

theorem limbSum_limbAdd (f g : Limbs) : limbSum (limbAdd f g) = limbSum f + limbSum g := by
  simp only [limbSum_eq_sum, limbAdd_getElem, add_mul, Finset.sum_add_distrib]

theorem limbSum_limbSub (f g : Limbs) : limbSum (limbSub f g) = limbSum f - limbSum g := by
  simp only [limbSum_eq_sum, limbSub_getElem, sub_mul, Finset.sum_sub_distrib]

/-- Reducing modulo p keeps sums. -/
theorem fpOfInt_add (x y : Int) : fpOfInt (x + y) = fpAdd (fpOfInt x) (fpOfInt y) := by
  apply Fin.ext
  apply Int.natCast_inj.mp
  rw [fpAdd_val, Int.natCast_emod, Int.natCast_add, fpOfInt_val, fpOfInt_val, fpOfInt_val, ← Int.add_emod]

/-- Reducing modulo p keeps differences. -/
theorem fpOfInt_sub (x y : Int) : fpOfInt (x - y) = fpSub (fpOfInt x) (fpOfInt y) := by
  apply Fin.ext
  apply Int.natCast_inj.mp
  rw [fpSub_val, fpOfInt_val, fpOfInt_val, fpOfInt_val, ← Int.sub_emod]

theorem limbValue_limbAdd (f g : Limbs) : limbValue (limbAdd f g) = fpAdd (limbValue f) (limbValue g) := by
  rw [limbValue, limbSum_limbAdd, fpOfInt_add, limbValue, limbValue]

theorem limbValue_limbSub (f g : Limbs) : limbValue (limbSub f g) = fpSub (limbValue f) (limbValue g) := by
  rw [limbValue, limbSum_limbSub, fpOfInt_sub, limbValue, limbValue]

/-- The depth-1 bound is twice the depth-0 bound (rule R41). -/
theorem limbBound_one : limbBound 1 = limbBound 0 + limbBound 0 := by decide

theorem limbBound_one_lt : limbBound 1 < 2 ^ 31 := by decide

theorem limbsBounded_limbAdd {f g : Limbs} (hf : LimbsBounded 0 f) (hg : LimbsBounded 0 g) :
    LimbsBounded 1 (limbAdd f g) := fun i => by
  rw [limbAdd_getElem, limbBound_one]
  exact (Int.natAbs_add_le _ _).trans (Nat.add_le_add (hf i) (hg i))

theorem limbsBounded_limbSub {f g : Limbs} (hf : LimbsBounded 0 f) (hg : LimbsBounded 0 g) :
    LimbsBounded 1 (limbSub f g) := fun i => by
  rw [limbSub_getElem, limbBound_one]
  exact (Int.natAbs_sub_le _ _).trans (Nat.add_le_add (hf i) (hg i))

/-- Limbs within the depth-1 bound fit signed 32-bit registers. -/
theorem LimbsBounded.fits_int32 {l : Limbs} (h : LimbsBounded 1 l) (i : Fin nLimb) :
    -2 ^ 31 ≤ l[i.val] ∧ l[i.val] < 2 ^ 31 := by
  have := (h i).trans_lt limbBound_one_lt
  omega

/-- Settles O51: values add limb by limb, and the depth-1 bound is twice the depth-0 bound. -/
theorem limbAddAndSubRepresent : Obligations.LimbAddAndSubRepresent := by
  rintro f g ⟨a, _⟩ ⟨b, _⟩ rfl rfl ⟨rfl, hf⟩ ⟨rfl, hg⟩
  have sum := limbsBounded_limbAdd hf hg
  have difference := limbsBounded_limbSub hf hg
  refine ⟨⟨limbValue_limbAdd f g, sum⟩, ⟨limbValue_limbSub f g, difference⟩, fun i => ?_⟩
  obtain ⟨sumLo, sumHi⟩ := LimbsBounded.fits_int32 sum i
  obtain ⟨diffLo, diffHi⟩ := LimbsBounded.fits_int32 difference i
  exact ⟨limbAdd_getElem f g i, limbSub_getElem f g i, sumLo, sumHi, diffLo, diffHi⟩

end Sys2Proof.Machine
end

section
/-! PROOFS. MLEN counts bits for the host: SINIT and SCOMP alone write it, and no other result of a command depends on
it (rule R241). -/

namespace Sys2Proof.Machine

theorem exec_sinit (s : State) : exec .sinit s = .next (complete { s with h := initialChaining, mlen := 0 }) := rfl

theorem exec_scomp (s : State) :
    exec .scomp s = .next (complete { s with h := compress s.h s.w, mlen := s.mlen + 1024 }) := rfl

/-- The shared meaning of FADD and FSUB carries MLEN along; the depths that decide between its two outcomes are the
same with any MLEN. -/
theorem addSub_with_mlen (op : Fp → Fp → Fp) (rd rs1 rs2 : Reg) (s : State) (m : Count) :
    addSub op rd rs1 rs2 { s with mlen := m } = { addSub op rd rs1 rs2 s with mlen := m } := by
  rcases addSub_cases op rd rs1 rs2 s with ⟨depth1, depth2, sum⟩ | ⟨depth, rejection⟩
  · rw [sum]
    exact addSub_of_depth_zero depth1 depth2
  · rw [rejection, reject_eq_rejectedState]
    exact addSub_of_depth_one depth

/-- A command that is neither SINIT nor SCOMP carries MLEN along: with another MLEN before it, the state after it is
the same but for that MLEN. -/
theorem exec_with_mlen {i : Instr} (notSinit : i ≠ .sinit) (notScomp : i ≠ .scomp) (s : State) (m : Count) :
    ∃ t, exec i s = .next t ∧ exec i { s with mlen := m } = .next { t with mlen := m } := by
  cases i with
  | sinit => exact absurd rfl notSinit
  | scomp => exact absurd rfl notScomp
  | fadd rd rs1 rs2 => exact ⟨_, exec_fadd rd rs1 rs2 s, congrArg _ (addSub_with_mlen fpAdd rd rs1 rs2 s m)⟩
  | fsub rd rs1 rs2 => exact ⟨_, exec_fsub rd rs1 rs2 s, congrArg _ (addSub_with_mlen fpSub rd rs1 rs2 s m)⟩
  | nop | fzero | fone | fload | fstore | fmul | fsqr | finv => exact ⟨_, rfl, rfl⟩

/-- So it leaves MLEN as it was: MLEN before it is one of those it carries along. -/
theorem exec_keeps_mlen {i : Instr} (notSinit : i ≠ .sinit) (notScomp : i ≠ .scomp) (s : State) :
    ∃ t, exec i s = .next t ∧ t.mlen = s.mlen := by
  obtain ⟨_, -, carried⟩ := exec_with_mlen notSinit notScomp s s.mlen
  exact ⟨_, carried, rfl⟩

/-- Settles O22: SINIT and SCOMP write MLEN, and the other commands carry it along. -/
theorem mlenIsOnlyBookkeeping : Obligations.MlenIsOnlyBookkeeping := by
  refine ⟨fun s => ⟨_, exec_scomp s, BitVec.toNat_add s.mlen 1024⟩, fun s => ⟨_, exec_sinit s, rfl⟩,
    fun s i notSinit notScomp => exec_keeps_mlen notSinit notScomp s, fun s i m => ?independent⟩
  case independent =>
    by_cases isSinit : i = .sinit
    · subst isSinit
      exact ⟨_, 0, exec_sinit s, exec_sinit _⟩
    by_cases isScomp : i = .scomp
    · subst isScomp
      exact ⟨_, m + 1024, exec_scomp s, exec_scomp _⟩
    obtain ⟨t, before, after⟩ := exec_with_mlen isSinit isScomp s m
    exact ⟨t, m, before, after⟩

end Sys2Proof.Machine
end

section
/-! SUPPORT. Every outcome of the decoder by the word: the opcode its low byte names, and then the mask and match test
of that opcode (rules R134–R138). -/

namespace Sys2Proof

/-! ### The opcode byte, by its 256 values -/

theorem Opcode.eq_byte_of_named : ∀ b : BitVec 8, ∀ op ∈ Opcode.named b, b = op.byte := by decide

/-- The bytes that name no opcode (rule R137). -/
theorem Opcode.named_eq_none_iff : ∀ b : BitVec 8,
    Opcode.named b = none ↔ b.toNat ∉ [0, 1, 2, 3, 4, 5, 6, 7, 8, 9, 16, 17] := by decide

theorem fieldsOf_opc_eq_byte_iff {v : Word} {op : Opcode} :
    (fieldsOf v).opc = op.byte ↔ v.toNat % 256 = op.pattern.toNat := by
  have byte : op.byte.toNat = op.pattern.toNat := by cases op <;> rfl
  rw [← BitVec.toNat_inj, fieldsOf_opc_toNat, byte]
  exact Iff.rfl

/-! ### The outcomes -/

/-- `decode` in its order: an opcode that does not exist, a failed mask and match test, or the command. -/
theorem decode_cases (v : Word) :
    (Opcode.named (fieldsOf v).opc = none ∧ decode v = .error .opcode) ∨
      ∃ op : Opcode, (fieldsOf v).opc = op.byte ∧
        (v &&& op.mask ≠ op.pattern ∧ decode v = .error .rsvd ∨
          v &&& op.mask = op.pattern ∧ decode v = .ok (op.instr (fieldsOf v))) := by
  have opcByte : v.extractLsb' 0 8 = (fieldsOf v).opc := rfl
  cases named : Opcode.named (fieldsOf v).opc with
  | none => exact .inl ⟨rfl, by simp only [decode, opcByte, named]⟩
  | some op =>
    have opc := Opcode.eq_byte_of_named _ op named
    refine .inr ⟨op, opc, ?_⟩
    by_cases passes : v &&& op.mask = op.pattern
    · exact .inr ⟨passes, by simp only [decode, opcByte, named, if_pos passes]⟩
    · exact .inl ⟨passes, decode_eq_rsvd opc passes⟩

theorem decode_eq_opcode_iff {v : Word} :
    decode v = .error .opcode ↔ v.toNat % 256 ∉ [0, 1, 2, 3, 4, 5, 6, 7, 8, 9, 16, 17] := by
  have unnamed := Opcode.named_eq_none_iff (fieldsOf v).opc
  rw [fieldsOf_opc_toNat] at unnamed
  refine Iff.trans ?_ unnamed
  rcases decode_cases v with ⟨none, h⟩ | ⟨op, opc, ⟨-, h⟩ | ⟨-, h⟩⟩
  · simp [none, h]
  all_goals simp [opc, h, Opcode.named_byte]

theorem decode_eq_rsvd_iff {v : Word} : decode v = .error .rsvd ↔
    ∃ op : Opcode, v.toNat % 256 = op.pattern.toNat ∧ v &&& op.mask ≠ op.pattern := by
  refine ⟨fun rejected => ?_, fun ⟨op, opc, fails⟩ => decode_eq_rsvd (fieldsOf_opc_eq_byte_iff.mpr opc) fails⟩
  rcases decode_cases v with ⟨-, h⟩ | ⟨op, opc, ⟨fails, h⟩ | ⟨-, h⟩⟩ <;> cases h.symm.trans rejected
  exact ⟨op, fieldsOf_opc_eq_byte_iff.mp opc, fails⟩

/-- The fields of a word that passes the test of an opcode are those of the command it is read as. -/
theorem Opcode.command_instr {v : Word} {op : Opcode} (passes : v &&& op.mask = op.pattern) :
    (op.instr (fieldsOf v)).command = fieldsOf v := by
  rw [and_mask_eq_pattern_iff] at passes
  generalize fieldsOf v = c at passes
  obtain ⟨opc, rd, rs1, rs2, rsvd⟩ := c
  cases op <;> simp_all [Opcode.uses, Opcode.byte, Opcode.pattern, Opcode.instr, Instr.command]

/-- A word decodes to an instruction exactly when it is that instruction's word: no bit of it is ignored (rule R138). -/
theorem decode_eq_ok_iff {v : Word} {i : Instr} : decode v = .ok i ↔ v = encode i := by
  refine ⟨fun decodes => ?_, fun word => word ▸ decode_encode i⟩
  rcases decode_cases v with ⟨-, h⟩ | ⟨op, -, ⟨-, h⟩ | ⟨passes, h⟩⟩ <;> cases h.symm.trans decodes
  rw [encode, Opcode.command_instr passes, word_fieldsOf]

end Sys2Proof
end

section
/-! PROOFS. Which errors a completion raises (rules R273–R276). -/

namespace Sys2Proof.Machine

open Sys2Proof.Config

/-- `i` is an FADD or FSUB whose result would be of a depth above `D_MAX` (rules R190, R275). -/
def ExceedsDepth (i : Instr) (s : State) : Prop :=
  ∃ rd rs1 rs2 : Reg, (i = .fadd rd rs1 rs2 ∨ i = .fsub rd rs1 rs2) ∧
    max (readF s rs1).depth.val (readF s rs2).depth.val + 1 > dMax

theorem exceeds_dMax_iff : ∀ a b : Depth, max a.val b.val + 1 > dMax ↔ a = 1 ∨ b = 1 := by decide

theorem exec_of_exceedsDepth {i : Instr} {s : State} (exceeds : ExceedsDepth i s) :
    exec i s = .next (rejectedState 3 s) := by
  obtain ⟨rd, rs1, rs2, rfl | rfl, depth⟩ := exceeds
  all_goals exact congrArg _ (addSub_of_depth_one ((exceeds_dMax_iff _ _).mp depth))

theorem addSub_keeps_error (op : Fp → Fp → Fp) {rd rs1 rs2 : Reg} {s : State}
    (within : ¬ max (readF s rs1).depth.val (readF s rs2).depth.val + 1 > dMax) :
    (addSub op rd rs1 rs2 s).err = s.err ∧ (addSub op rd rs1 rs2 s).errcode = s.errcode := by
  rcases addSub_cases op rd rs1 rs2 s with ⟨-, -, sum⟩ | ⟨depth, -⟩
  · rw [sum]
    exact ⟨rfl, rfl⟩
  · exact absurd ((exceeds_dMax_iff _ _).mpr depth) within

/-- A command that is not rejected for its depths raises no error. -/
theorem exec_keeps_error {i : Instr} {s : State} (within : ¬ ExceedsDepth i s) :
    ∃ t, exec i s = .next t ∧ t.err = s.err ∧ t.errcode = s.errcode := by
  cases i with
  | fadd rd rs1 rs2 =>
    exact ⟨_, exec_fadd rd rs1 rs2 s, addSub_keeps_error fpAdd fun h => within ⟨rd, rs1, rs2, .inl rfl, h⟩⟩
  | fsub rd rs1 rs2 =>
    exact ⟨_, exec_fsub rd rs1 rs2 s, addSub_keeps_error fpSub fun h => within ⟨rd, rs1, rs2, .inr rfl, h⟩⟩
  | nop | fzero | fone | fload | fstore | fmul | fsqr | finv | sinit | scomp => exact ⟨_, rfl, rfl, rfl⟩

/-- The four outcomes of a completion, in the order of its checks (rules R136, R271, R275). -/
theorem completeWord_outcome (v : Word) (s : State) :
    (decode v = .error .opcode ∧ completeWord v s = .next (rejectedState 1 s)) ∨
      (decode v = .error .rsvd ∧ completeWord v s = .next (rejectedState 2 s)) ∨
      ∃ i, decode v = .ok i ∧
        (ExceedsDepth i s ∧ completeWord v s = .next (rejectedState 3 s) ∨
          ¬ ExceedsDepth i s ∧ ∃ t, completeWord v s = .next t ∧ t.err = s.err ∧ t.errcode = s.errcode) := by
  cases h : decode v with
  | error e =>
    have rejection := completeWord_of_decode_error h s
    cases e with
    | opcode => exact .inl ⟨rfl, rejection⟩
    | rsvd => exact .inr (.inl ⟨rfl, rejection⟩)
  | ok i =>
    refine .inr (.inr ⟨i, rfl, ?_⟩)
    rw [completeWord_of_decode h]
    by_cases exceeds : ExceedsDepth i s
    · exact .inl ⟨exceeds, exec_of_exceedsDepth exceeds⟩
    · exact .inr ⟨exceeds, exec_keeps_error exceeds⟩

/-- The condition for E_DEPTH by the word. -/
theorem exists_decode_exceedsDepth_iff {v : Word} {s : State} : (∃ i, decode v = .ok i ∧ ExceedsDepth i s) ↔
    ∃ rd rs1 rs2 : Reg, (v = encode (.fadd rd rs1 rs2) ∨ v = encode (.fsub rd rs1 rs2)) ∧
      max (readF s rs1).depth.val (readF s rs2).depth.val + 1 > dMax := by
  constructor
  · rintro ⟨i, decodes, rd, rs1, rs2, rfl | rfl, depth⟩
    · exact ⟨rd, rs1, rs2, .inl (decode_eq_ok_iff.mp decodes), depth⟩
    · exact ⟨rd, rs1, rs2, .inr (decode_eq_ok_iff.mp decodes), depth⟩
  · rintro ⟨rd, rs1, rs2, word | word, depth⟩
    · exact ⟨_, decode_eq_ok_iff.mpr word, rd, rs1, rs2, .inl rfl, depth⟩
    · exact ⟨_, decode_eq_ok_iff.mpr word, rd, rs1, rs2, .inr rfl, depth⟩

/-- Settles O8: the two illegal encodings and the depth check are the outcomes that raise an error, each its own. -/
theorem rejectedCommandsWriteStatusOnly : Obligations.RejectedCommandsWriteStatusOnly := by
  refine ⟨fun v s undefined => completeWord_of_decode_error (decode_eq_opcode_iff.mpr undefined) s,
    fun v s op opc fails => completeWord_of_decode_error (decode_eq_rsvd_iff.mpr ⟨op, opc, fails⟩) s,
    fun s rd rs1 rs2 depth => ⟨?fadd, ?fsub⟩, fun v s noError => ?raised⟩
  case fadd =>
    rw [completeWord_of_decode (decode_encode _)]
    exact exec_of_exceedsDepth ⟨rd, rs1, rs2, .inl rfl, depth⟩
  case fsub =>
    rw [completeWord_of_decode (decode_encode _)]
    exact exec_of_exceedsDepth ⟨rd, rs1, rs2, .inr rfl, depth⟩
  case raised =>
    simp only [← decode_eq_opcode_iff, ← decode_eq_rsvd_iff, ← exists_decode_exceedsDepth_iff]
    rcases completeWord_outcome v s with
      ⟨decodes, h⟩ | ⟨decodes, h⟩ | ⟨i, decodes, ⟨exceeds, h⟩ | ⟨within, t, h, err, -⟩⟩
    · exact ⟨_, h, by simp [decodes, rejectedState, noError]⟩
    · exact ⟨_, h, by simp [decodes, rejectedState, noError]⟩
    · exact ⟨_, h, by simp [decodes, rejectedState, noError, exceeds]⟩
    · exact ⟨t, h, by simp [decodes, err, noError, within]⟩

end Sys2Proof.Machine
end

section
/-! SUPPORT. What each step does to DONE and to a recorded error: a completion, a reset, an acknowledgement and an
acceptance act on them in their own way, and every other event leaves DONE and keeps a recorded error (rules R271, R279,
R282). -/

namespace Sys2Proof.Machine

/-- An error recorded in `s` is still recorded in `t`, with its code (rule R279). -/
def KeepsError (s t : State) : Prop := s.err = true → t.err = true ∧ t.errcode = s.errcode

/-- From `s` to `t` DONE is unchanged and a recorded error kept. -/
def KeepsFlags (s t : State) : Prop := t.done = s.done ∧ KeepsError s t

theorem keepsError_of_eq {s t : State} (err : t.err = s.err) (errcode : t.errcode = s.errcode) : KeepsError s t :=
  fun recorded => ⟨err.trans recorded, errcode⟩

theorem keepsFlags_of_eq {s t : State} (done : t.done = s.done) (err : t.err = s.err)
    (errcode : t.errcode = s.errcode) : KeepsFlags s t :=
  ⟨done, keepsError_of_eq err errcode⟩

theorem KeepsFlags.refl (s : State) : KeepsFlags s s := keepsFlags_of_eq rfl rfl rfl

theorem keepsError_rejectedState (c : BitVec 4) (s : State) : KeepsError s (rejectedState c s) :=
  fun recorded => ⟨rfl, if_pos recorded⟩

theorem keepsFlags_erredState (c : BitVec 4) (s : State) : KeepsFlags s (erredState c s) :=
  ⟨rfl, fun recorded => ⟨rfl, if_pos recorded⟩⟩

/-! ### Completions -/

theorem exec_busy {i : Instr} {s t : State} (h : exec i s = .next t) : t.busy = false := by
  rcases exec_cases i s with ⟨rd, r, -, e⟩ | ⟨d, e⟩ | ⟨hv, m, e⟩ | e | e <;> cases e.symm.trans h <;> rfl

/-- Every completion clears BUSY (rule R271). -/
theorem completeWord_busy {v : Word} {s t : State} (h : completeWord v s = .next t) : t.busy = false := by
  rcases completeWord_cases v s with ⟨i, -, e⟩ | ⟨err, -, e⟩
  · exact exec_busy (e.symm.trans h)
  · cases e.symm.trans h
    rfl

/-- A completion, even one that raises an error, keeps a recorded error. -/
theorem completeWord_keepsError {v : Word} {s t : State} (h : completeWord v s = .next t) : KeepsError s t := by
  rcases completeWord_outcome v s with ⟨-, e⟩ | ⟨-, e⟩ | ⟨i, -, ⟨-, e⟩ | ⟨-, t, e, err, errcode⟩⟩ <;>
    cases e.symm.trans h
  · exact keepsError_rejectedState 1 s
  · exact keepsError_rejectedState 2 s
  · exact keepsError_rejectedState 3 s
  · exact keepsError_of_eq err errcode

/-- The step that completes a command does what `completeWord` does. -/
theorem step_of_nextCompletes {s : State} {v : Word} (next : NextCompletes s v) :
    ∃ rest, step s = completeWord v (setInputs rest s) := by
  obtain ⟨up, busy, rfl, turn⟩ := next
  have pending (rest : List Input) : pendingCommand (setInputs rest s) = some s.pend :=
    pendingCommand_eq_some.mpr ⟨up, busy, rfl⟩
  rcases turn with empty | engine
  · have turns : step s = engineTurn s := by simp only [step, empty]
    exact ⟨s.inputs, turns.trans (engineTurn_pending (pending s.inputs))⟩
  · obtain ⟨rest, event⟩ := List.head?_eq_some_iff.mp engine
    exact ⟨rest, (step_engine event).trans (engineTurn_pending (pending rest))⟩

/-! ### Host accesses -/

theorem keepsFlags_hostRead (off : Offset) (size : Size) (s : State) : KeepsFlags s (hostRead off size s) := by
  unfold hostRead
  split
  · rcases memReadState_cases off size s with h | h <;> rw [h]
    · exact .refl s
    · exact keepsFlags_erredState 5 s
  · exact .refl s

/-- While `rst_n` is low a write does nothing (rule R310). -/
theorem hostWrite_of_rstn_low {s : State} (low : s.rstn = false) (off : Offset) (size : Size) (v : Word) :
    hostWrite off size v s = s :=
  if_neg (by simp [low])

theorem keepsFlags_writeReg_operand {r : WinReg} (operand : r.IsOperand) (v : Word) (s : State) :
    KeepsFlags s (writeReg r v s) := by
  cases busy : s.busy with
  | true =>
    rw [writeReg_operand_of_busy operand busy]
    exact keepsFlags_erredState 4 s
  | false =>
    cases r with
    | ctrl | status | cmd | id | fdepth | reserved => exact operand.elim
    | data | hLo | hHi | wLo | wHi | mlen =>
      rw [writeReg, writeOperand_of_idle busy]
      exact .refl s

/-- A write that acts on DONE or on a recorded error is a software reset, the acknowledgement or an acceptance. -/
theorem memWrite_flags_cases (off : Offset) (size : Size) (v : Word) (s : State) :
    (off = 0x000 ∧ size = .four ∧ v.getLsbD 1 = true ∧ memWrite off size v s = resetUnit s) ∨
      (off = 0x004 ∧ size = .four ∧ memWrite off size v s = acknowledge v s) ∨
      (off = 0x008 ∧ size = .four ∧ s.busy = false ∧ memWrite off size v s = accept v s) ∨
      KeepsFlags s (memWrite off size v s) := by
  by_cases aligned : size = .four ∧ off.toNat % 4 = 0
  case neg =>
    rw [memWrite_malformed (not_and_or.mp aligned)]
    exact .inr (.inr (.inr (keepsFlags_erredState 5 s)))
  obtain ⟨rfl, aligned⟩ := aligned
  have place := regAt_standsAt off aligned
  rw [memWrite_four aligned]
  generalize regAt off = r at place
  cases r with
  | ctrl =>
    by_cases srst : v.getLsbD 1 = true
    · exact .inl ⟨BitVec.eq_of_toNat_eq place, rfl, srst, if_pos srst⟩
    · rw [writeReg, writeCtrl, if_neg srst]
      exact .inr (.inr (.inr (.refl s)))
  | status => exact .inr (.inl ⟨BitVec.eq_of_toNat_eq place, rfl, rfl⟩)
  | cmd =>
    cases busy : s.busy with
    | true =>
      rw [writeReg_cmd_of_busy busy]
      exact .inr (.inr (.inr (keepsFlags_erredState 4 s)))
    | false => exact .inr (.inr (.inl ⟨BitVec.eq_of_toNat_eq place, rfl, rfl, if_neg (by simp [busy])⟩))
  | id | fdepth | reserved => exact .inr (.inr (.inr (.refl s)))
  | data | hLo | hHi | wLo | wHi | mlen => exact .inr (.inr (.inr (keepsFlags_writeReg_operand (by trivial) v s)))

/-! ### Steps -/

/-- What a step does to DONE and to a recorded error: its effect when it is a completion, a reset, an acknowledgement
or an acceptance, and otherwise nothing. -/
theorem step_flags_cases {s t : State} (taken : step s = .next t) :
    (∃ v, NextCompletes s v ∧ t.done = true ∧ t.busy = false ∧ KeepsError s t) ∨
      (NextResets s ∧ t.done = false) ∨
      (∃ v, s.rstn = true ∧ s.inputs.head? = some (.write 0x004 .four v) ∧
        t = acknowledge v (setInputs s.inputs.tail s)) ∨
      (∃ v, NextWrites s 0x008 0x00C ∧ t = accept v (setInputs s.inputs.tail s)) ∨ KeepsFlags s t := by
  rcases step_cases s with ⟨-, -, h⟩ | ⟨v, pending, turn, h⟩ | ⟨off, size, -, h⟩ | ⟨off, size, v, event, h⟩ |
    ⟨event, h⟩ | ⟨-, h⟩
  · cases h.symm.trans taken
    exact .inr (.inr (.inr (.inr (.refl s))))
  · obtain ⟨up, busy, rfl⟩ := pendingCommand_eq_some.mp pending
    have completes := h.symm.trans taken
    exact .inl ⟨_, ⟨up, busy, rfl, turn⟩, (completeWord_done_ie completes).1, completeWord_busy completes,
      completeWord_keepsError (s := setInputs s.inputs.tail s) completes⟩
  · cases h.symm.trans taken
    exact .inr (.inr (.inr (.inr (keepsFlags_hostRead off size _))))
  · cases h.symm.trans taken
    cases up : s.rstn with
    | false =>
      rw [hostWrite_of_rstn_low (s := setInputs s.inputs.tail s) up]
      exact .inr (.inr (.inr (.inr (.refl s))))
    | true =>
      rw [hostWrite_of_rstn (s := setInputs s.inputs.tail s) up]
      rcases memWrite_flags_cases off size v (setInputs s.inputs.tail s) with
        ⟨rfl, rfl, srst, e⟩ | ⟨rfl, rfl, e⟩ | ⟨rfl, rfl, idle, e⟩ | keeps
      · exact .inr (.inl ⟨.inr ⟨v, up, event, srst⟩, by rw [e]; rfl⟩)
      · exact .inr (.inr (.inl ⟨v, rfl, event, e⟩))
      · exact .inr (.inr (.inr (.inl ⟨v, ⟨0x008, v, up, idle, event, rfl, le_rfl, by decide⟩, e⟩)))
      · exact .inr (.inr (.inr (.inr keeps)))
  · cases h.symm.trans taken
    exact .inr (.inl ⟨.inl event, rfl⟩)
  · cases h.symm.trans taken
    exact .inr (.inr (.inr (.inr (.refl s))))

end Sys2Proof.Machine
end

section
/-! PROOFS. The first error and DONE over a step (rules R279, R282). -/

namespace Sys2Proof.Machine

theorem acknowledge_keepsError {v : Word} (bit : ¬ v.getLsbD 2 = true) (s : State) :
    KeepsError s (acknowledge v s) := by
  rw [acknowledge_eq]
  exact keepsError_of_eq (if_neg bit) (if_neg bit)

/-- Settles O42: of the steps that act on the flags only an acknowledgement and a reset clear an error. -/
theorem firstErrorStays : Obligations.FirstErrorStays := by
  refine ⟨fun e s => rfl, fun s t taken recorded => ?_⟩
  rcases step_flags_cases taken with ⟨v, -, -, -, keeps⟩ | ⟨resets, -⟩ | ⟨v, -, event, rfl⟩ | ⟨v, -, rfl⟩ | ⟨-, keeps⟩
  · exact .inl (keeps recorded)
  · exact .inr (.inl resets)
  · by_cases bit : v.getLsbD 2 = true
    · exact .inr (.inr ⟨v, event, bit⟩)
    · exact .inl (acknowledge_keepsError bit (setInputs s.inputs.tail s) recorded)
  · exact .inl ⟨recorded, rfl⟩
  · exact .inl (keeps recorded)

/-- Settles O43: of the steps that act on the flags only a completion sets DONE, and it clears BUSY. -/
theorem doneMarksCompletion : Obligations.DoneMarksCompletion := by
  refine ⟨fun s t v completes taken => ?completion, fun s t taken changed => ?change,
    fun s t taken busy notDone stillBusy => ?stillRunning⟩
  case completion =>
    obtain ⟨rest, h⟩ := step_of_nextCompletes completes
    have completed := h.symm.trans taken
    exact ⟨(completeWord_done_ie completed).1, completeWord_busy completed⟩
  case change =>
    rcases step_flags_cases taken with ⟨v, completes, -⟩ | ⟨resets, -⟩ | ⟨v, up, event, rfl⟩ | ⟨v, writes, -⟩ |
      ⟨done, -⟩
    · exact .inl ⟨v, completes⟩
    · exact .inr (.inr (.inl resets))
    · refine .inr (.inr (.inr ⟨v, up, event, ?_⟩))
      by_contra bit
      exact changed (by rw [acknowledge_eq]; exact if_neg bit)
    · exact .inr (.inl writes)
    · exact absurd done changed
  case stillRunning =>
    rcases step_flags_cases taken with ⟨v, -, -, idle, -⟩ | ⟨-, cleared⟩ | ⟨v, -, -, rfl⟩ | ⟨v, -, rfl⟩ | ⟨done, -⟩
    · simp [idle] at stillBusy
    · exact cleared
    · simp [notDone]
    · rfl
    · exact done.trans notDone

end Sys2Proof.Machine
end

section
/-! PROOFS. A recorded error changes neither acceptance nor the results of a command (rule R285). -/

namespace Sys2Proof.Machine

/-- The shared meaning of FADD and FSUB decides by the depths alone, and rejects or completes with any ERR and
ERRCODE. -/
theorem addSub_with_error (op : Fp → Fp → Fp) (rd rs1 rs2 : Reg) (s : State) (b : Bool) (c : BitVec 4) :
    ∃ b' c', addSub op rd rs1 rs2 { s with err := b, errcode := c } =
      { addSub op rd rs1 rs2 s with err := b', errcode := c' } := by
  rcases addSub_cases op rd rs1 rs2 s with ⟨depth1, depth2, sum⟩ | ⟨depth, rejection⟩
  · rw [sum]
    exact ⟨b, c, addSub_of_depth_zero depth1 depth2⟩
  · rw [rejection, reject_eq_rejectedState]
    exact ⟨true, _, addSub_of_depth_one depth⟩

/-- With another ERR and ERRCODE before it, a command leaves the same state but for those two. -/
theorem exec_with_error (i : Instr) (s : State) (b : Bool) (c : BitVec 4) :
    ∃ t b' c', exec i s = .next t ∧
      exec i { s with err := b, errcode := c } = .next { t with err := b', errcode := c' } := by
  cases i with
  | fadd rd rs1 rs2 =>
    obtain ⟨b', c', h⟩ := addSub_with_error fpAdd rd rs1 rs2 s b c
    exact ⟨_, b', c', exec_fadd rd rs1 rs2 s, congrArg _ h⟩
  | fsub rd rs1 rs2 =>
    obtain ⟨b', c', h⟩ := addSub_with_error fpSub rd rs1 rs2 s b c
    exact ⟨_, b', c', exec_fsub rd rs1 rs2 s, congrArg _ h⟩
  | nop | fzero | fone | fload | fstore | fmul | fsqr | finv | sinit | scomp => exact ⟨_, b, c, rfl, rfl⟩

/-- Settles O46: a command and a rejection carry ERR and ERRCODE along, and so does an acceptance. -/
theorem recordedErrorDoesNotBlock : Obligations.RecordedErrorDoesNotBlock := by
  refine ⟨fun v s b c => ?completion,
    fun v s b c idle => memWrite_cmd_of_idle (s := { s with err := b, errcode := c }) idle v, fun s => ?clear⟩
  case completion =>
    cases decodes : decode v with
    | error e =>
      exact ⟨_, true, _, completeWord_of_decode_error decodes s, completeWord_of_decode_error decodes _⟩
    | ok i =>
      simp only [completeWord_of_decode decodes]
      exact exec_with_error i s b c
  case clear =>
    rw [memWrite_status, acknowledge_eq]
    rfl

end Sys2Proof.Machine
end

section
/-! PROOFS. Words and instructions: encoding, decoding and the checks of the fields (30_encoding.md). -/

namespace Sys2Proof

/-- Settles O1: the word carries the opcode and the operands in fields of their own. -/
theorem decodeOfEncodeIsTheInstruction : Obligations.DecodeOfEncodeIsTheInstruction :=
  fun i _ => decode_encode i

/-- Settles O2: a word that passes the test of its opcode has no bit outside the fields of its command. -/
theorem encodeOfDecodeIsTheWord : Obligations.EncodeOfDecodeIsTheWord :=
  fun _ _ decodes => (decode_eq_ok_iff.mp decodes).symm

/-- Where the opcode is `op`, the checks of the fields ask what its mask and match test asks. -/
theorem wellFormed_fieldsOf_iff {v : Word} {op : Opcode} (opc : (fieldsOf v).opc = op.byte) :
    (fieldsOf v).wellFormed = true ↔ v &&& op.mask = op.pattern := by
  rw [and_mask_eq_pattern_iff]
  have checks : (fieldsOf v).wellFormed = true ↔
      (fieldsOf v).rsvd = 0 ∧ (op.uses.rd = true ∨ (fieldsOf v).rd = 0) ∧
        (op.uses.rs1 = true ∨ (fieldsOf v).rs1 = 0) ∧ (op.uses.rs2 = true ∨ (fieldsOf v).rs2 = 0) := by
    simp [Command.wellFormed, Command.opcodeDefined, Command.reservedZero, Command.unusedRdZero,
      Command.unusedRs1Zero, Command.unusedRs2Zero, opc, Opcode.fieldUse_byte, and_assoc]
  simp only [checks, opc, true_and, or_iff_not_imp_left, Bool.not_eq_true]
  rw [and_comm]
  simp only [and_assoc]

theorem fieldUse_isSome_iff : ∀ b : BitVec 8, (fieldUse b).isSome = (Opcode.named b).isSome := by decide

/-- Settles O3, by the decoder's outcomes: both tests reject an undefined opcode, and otherwise they ask the same. -/
theorem decoderAcceptsExactlyWellFormedCommands : Obligations.DecoderAcceptsExactlyWellFormedCommands := by
  intro v
  rcases decode_cases v with ⟨unnamed, h⟩ | ⟨op, opc, ⟨fails, h⟩ | ⟨passes, h⟩⟩
  · have undefined : (fieldsOf v).opcodeDefined = false := by
      rw [Command.opcodeDefined, fieldUse_isSome_iff, unnamed]
      rfl
    simp [h, Command.wellFormed, undefined]
  · simp [h, wellFormed_fieldsOf_iff opc, fails]
  · simp [h, wellFormed_fieldsOf_iff opc, passes]

/-- Settles O4: the formula holds of the fields of every command. -/
theorem encodingFormula : Obligations.EncodingFormula := by
  intro rd rs1 rs2
  simp [encode, Command.word_toNat, Instr.command]

/-- Settles O5, by the words the commands encode to and the tests the others fail. -/
theorem sampleWordsDecode : Obligations.SampleWordsDecode := by
  refine ⟨decode_encode (.fadd 2 1 0), decode_encode (.fstore 5), decode_encode (.finv 4 3),
    decode_encode (.fmul 5 2 4), decode_encode .scomp, decode_eq_rsvd_iff.mpr ⟨.nop, ?_⟩,
    decode_eq_rsvd_iff.mpr ⟨.fsqr, ?_⟩, decode_eq_opcode_iff.mpr ?_⟩ <;> decide

end Sys2Proof
end

section
/-! PROOFS. Assembly lines (30_encoding.md section 5): a line is split where it was joined. -/

namespace Sys2Proof.Machine

/-- A text that no separator of a line cuts: not empty, and without blanks, commas and semicolons. -/
def IsToken (t : List Char) : Prop := t ≠ [] ∧ ∀ c ∈ t, c ≠ ' ' ∧ c ≠ ',' ∧ c ≠ ';'

theorem isToken_mnemonic (i : Instr) : IsToken (mnemonic i) := by
  cases i <;> simp [IsToken, mnemonic]

theorem isToken_regName (r : Reg) : IsToken (regName r) := by
  refine ⟨List.cons_ne_nil _ _, fun c hc => ?_⟩
  rcases List.mem_cons.mp hc with rfl | digit
  · decide
  · have isDigit : c.isDigit = true := Nat.isDigit_of_mem_toDigits (by decide) (by decide) digit
    refine ⟨?_, ?_, ?_⟩ <;> rintro rfl <;> exact absurd isDigit (by decide)

theorem regOfName_regName : ∀ r : Reg, regOfName (regName r) = some r := by decide

/-! ### Blanks -/

theorem trimBlanks_blank_cons (t : List Char) : trimBlanks (' ' :: t) = trimBlanks t := by
  simp [trimBlanks]

/-- Nothing is trimmed from a text that neither begins nor ends with a blank. -/
theorem trimBlanks_of_ends {t : List Char} (first : t.head? ≠ some ' ') (last : t.getLast? ≠ some ' ') :
    trimBlanks t = t := by
  have keep {u : List Char} (h : u.head? ≠ some ' ') : u.dropWhile (· = ' ') = u := by
    cases u with
    | nil => rfl
    | cons c cs => exact List.dropWhile_cons_of_neg (by simpa using h)
  rw [trimBlanks, keep first, keep (by rwa [List.head?_reverse]), List.reverse_reverse]

theorem IsToken.head?_ne {t : List Char} (h : IsToken t) (u : List Char) : (t ++ u).head? ≠ some ' ' := by
  obtain ⟨nonempty, chars⟩ := h
  cases t with
  | nil => exact absurd rfl nonempty
  | cons c cs => simpa using (chars c List.mem_cons_self).1

theorem IsToken.getLast?_ne {t : List Char} (h : IsToken t) (u : List Char) : (u ++ t).getLast? ≠ some ' ' := by
  obtain ⟨nonempty, chars⟩ := h
  rw [List.getLast?_append_of_ne_nil u nonempty]
  intro last
  exact (chars ' ' (List.mem_of_getLast? last)).1 rfl

theorem IsToken.trimBlanks_eq {t : List Char} (h : IsToken t) : trimBlanks t = t :=
  trimBlanks_of_ends (by simpa using h.head?_ne []) (by simpa using h.getLast?_ne [])

/-! ### Operands -/

/-- Register names separated by commas and blanks, as a line writes its operands. -/
def operandText (rs : List Reg) : List Char := [',', ' '].intercalate (rs.map regName)

theorem operandText_singleton (r : Reg) : operandText [r] = regName r := by
  simp [operandText]

theorem operandText_cons_cons (r q : Reg) (rs : List Reg) :
    operandText (r :: q :: rs) = regName r ++ ',' :: ' ' :: operandText (q :: rs) := by
  simp [operandText, List.intercalate]

theorem splitAtChar_of_not_mem {c : Char} {t : List Char} (h : c ∉ t) : splitAtChar c t = [t] := by
  induction t with
  | nil => rfl
  | cons x xs ih =>
    rw [List.mem_cons, not_or] at h
    simp only [splitAtChar, ih h.2, if_neg (Ne.symm h.1)]

/-- The text before the first separator is the first piece. -/
theorem splitAtChar_append_cons {c : Char} {t : List Char} (h : c ∉ t) (u : List Char) :
    splitAtChar c (t ++ c :: u) = t :: splitAtChar c u := by
  have nonempty : ∃ p ps, splitAtChar c u = p :: ps := by
    cases u with
    | nil => exact ⟨_, _, rfl⟩
    | cons x xs =>
      unfold splitAtChar
      split
      · exact ⟨_, _, rfl⟩
      · split <;> exact ⟨_, _, rfl⟩
  obtain ⟨p, ps, pieces⟩ := nonempty
  induction t with
  | nil => simp [splitAtChar, pieces]
  | cons x xs ih =>
    rw [List.mem_cons, not_or] at h
    simp only [List.cons_append, splitAtChar, ih h.2, if_neg (Ne.symm h.1)]

theorem comma_not_mem_append_regName {pre : List Char} (noComma : ',' ∉ pre) (r : Reg) : ',' ∉ pre ++ regName r := by
  rw [List.mem_append, not_or]
  exact ⟨noComma, fun h => ((isToken_regName r).2 ',' h).2.1 rfl⟩

/-- Each piece of the operands is a register's name, but for blanks before it. -/
theorem mapM_splitAtChar_operandText (rs : List Reg) {pre : List Char} (noComma : ',' ∉ pre)
    (blank : ∀ t, trimBlanks (pre ++ t) = trimBlanks t) (r : Reg) :
    ((splitAtChar ',' (pre ++ operandText (r :: rs))).mapM fun t => regOfName (trimBlanks t)) = some (r :: rs) := by
  induction rs generalizing r pre with
  | nil =>
    rw [operandText_singleton, splitAtChar_of_not_mem (comma_not_mem_append_regName noComma r)]
    simp [blank, (isToken_regName r).trimBlanks_eq, regOfName_regName]
  | cons q qs ih =>
    have rest := ih (pre := [' ']) (by simp) trimBlanks_blank_cons q
    rw [operandText_cons_cons, ← List.append_assoc,
      splitAtChar_append_cons (comma_not_mem_append_regName noComma r), List.mapM_cons, blank,
      (isToken_regName r).trimBlanks_eq, regOfName_regName]
    exact congrArg (Option.bind · fun names => some (r :: names)) rest

/-! ### Lines -/

theorem instrOfTokens_mnemonic (i : Instr) : instrOfTokens (mnemonic i) i.operands = some i := by
  cases i <;> rfl

/-- A text of operands begins and ends with a register's name. -/
theorem exists_operandText_eq_append (r : Reg) (rs : List Reg) :
    (∃ u, operandText (r :: rs) = regName r ++ u) ∧ ∃ u q, operandText (r :: rs) = u ++ regName q := by
  induction rs generalizing r with
  | nil => exact ⟨⟨[], by simp [operandText_singleton]⟩, [], r, operandText_singleton r⟩
  | cons q qs ih =>
    obtain ⟨-, u, p, last⟩ := ih q
    exact ⟨⟨_, operandText_cons_cons r q qs⟩, regName r ++ ',' :: ' ' :: u, p,
      by rw [operandText_cons_cons, last]; simp⟩

theorem semicolon_not_mem_operandText (r : Reg) (rs : List Reg) : ';' ∉ operandText (r :: rs) := by
  have name (q : Reg) : ';' ∉ regName q := fun h => ((isToken_regName q).2 ';' h).2.2 rfl
  induction rs generalizing r with
  | nil => rw [operandText_singleton]; exact name r
  | cons q qs ih => simp [operandText_cons_cons, name, ih]

theorem takeWhile_ne_eq_self {c : Char} {t : List Char} (h : c ∉ t) : t.takeWhile (· ≠ c) = t :=
  List.takeWhile_eq_self_iff.mpr fun x hx => by simpa using fun e : x = c => h (e ▸ hx)

/-- A line of a mnemonic alone. -/
theorem assemble_mnemonic {mn : List Char} (token : IsToken mn) : assemble mn = instrOfTokens mn [] := by
  have noBlank : ' ' ∉ mn := fun h => (token.2 ' ' h).1 rfl
  have noSemicolon : ';' ∉ mn := fun h => (token.2 ';' h).2.2 rfl
  have rest : mn.dropWhile (· ≠ ' ') = [] := List.dropWhile_eq_nil_iff.mpr fun x hx => by
    simpa using fun e : x = ' ' => noBlank (e ▸ hx)
  simp only [assemble]
  rw [takeWhile_ne_eq_self noSemicolon, token.trimBlanks_eq, takeWhile_ne_eq_self noBlank, rest]
  rfl

/-- A line of a mnemonic and operands. -/
theorem assemble_operands {mn : List Char} (token : IsToken mn) (r : Reg) (rs : List Reg) :
    assemble (mn ++ ' ' :: operandText (r :: rs)) = instrOfTokens mn (r :: rs) := by
  obtain ⟨⟨u, first⟩, u', q, last⟩ := exists_operandText_eq_append r rs
  have noSemicolon : ';' ∉ mn ++ ' ' :: operandText (r :: rs) := by
    rw [List.mem_append, List.mem_cons]
    rintro (inMnemonic | isBlank | inOperands)
    · exact (token.2 ';' inMnemonic).2.2 rfl
    · exact absurd isBlank (by decide)
    · exact semicolon_not_mem_operandText r rs inOperands
  have notBlank : ∀ x ∈ mn, decide (x ≠ ' ') = true := fun x hx => decide_eq_true (token.2 x hx).1
  have lastToken : (mn ++ ' ' :: operandText (r :: rs)).getLast? ≠ some ' ' := by
    rw [last]
    simpa using (isToken_regName q).getLast?_ne (mn ++ ' ' :: u')
  have operands : trimBlanks (operandText (r :: rs)) = operandText (r :: rs) :=
    trimBlanks_of_ends (by rw [first]; exact (isToken_regName r).head?_ne u)
      (by rw [last]; exact (isToken_regName q).getLast?_ne u')
  have nonempty : operandText (r :: rs) ≠ [] := by
    rw [first]
    simp [(isToken_regName r).1]
  have names := mapM_splitAtChar_operandText rs (pre := []) (by simp) (fun _ => rfl) r
  simp only [assemble]
  rw [takeWhile_ne_eq_self noSemicolon, trimBlanks_of_ends (token.head?_ne _) lastToken,
    List.takeWhile_append_of_pos notBlank, List.dropWhile_append_of_pos notBlank,
    List.takeWhile_cons_of_neg (by simp), List.dropWhile_cons_of_neg (by simp), trimBlanks_blank_cons, operands,
    if_neg nonempty, List.append_nil]
  exact congrArg (Option.bind · (instrOfTokens mn)) names

/-- Settles O6: the line is cut at the blank and the commas it was joined with. -/
theorem assembleOfDisassembleIsTheCommand : Obligations.AssembleOfDisassembleIsTheCommand := by
  intro i
  have token := isToken_mnemonic i
  have command := instrOfTokens_mnemonic i
  rw [disassemble]
  cases operands : i.operands with
  | nil =>
    rw [operands] at command
    simpa [assemble_mnemonic token] using command
  | cons r rs =>
    rw [operands] at command
    exact (assemble_operands token r rs).trans command

end Sys2Proof.Machine
end

section
/-! PROOFS. The unit's invariant, and that no run stops (10_state.md sections 5 and 6, 60_exceptions.md). -/

namespace Sys2Proof.Machine

/-! ### The invariant's part on the flags and the last accepted word -/

/-- The invariant without its clause for a unit held in reset. -/
def FlagsInv (s : State) : Prop :=
  (s.err = false ↔ s.errcode = 0) ∧ s.errcode.toNat ≤ 5 ∧ s.pend = s.lastcmd ∧ (s.busy = true → s.done = false)

theorem unitInv_iff {s : State} : UnitInv s ↔ FlagsInv s ∧ (s.rstn = false → resetUnit s = s) := by
  simp only [UnitInv, FlagsInv, and_assoc]

/-- Out of reset the flags are all that the invariant speaks of. -/
theorem unitInv_of_rstn {s : State} (up : s.rstn = true) (flags : FlagsInv s) : UnitInv s :=
  unitInv_iff.mpr ⟨flags, fun low => by simp [up] at low⟩

/-- Only six registers matter to it. -/
theorem FlagsInv.congr {s t : State} (inv : FlagsInv s) (err : t.err = s.err) (errcode : t.errcode = s.errcode)
    (pend : t.pend = s.pend) (lastcmd : t.lastcmd = s.lastcmd)
    (busy : t.busy = true → s.busy = true ∧ t.done = s.done) : FlagsInv t := by
  obtain ⟨clear, code, last, running⟩ := inv
  rw [FlagsInv, err, errcode, pend, lastcmd]
  exact ⟨clear, code, last, fun b => (busy b).2.trans (running (busy b).1)⟩

theorem flagsInv_reset : FlagsInv State.reset := by
  simp [FlagsInv, State.reset]

theorem flagsInv_resetUnit (s : State) : FlagsInv (resetUnit s) := flagsInv_reset

/-- Recording an error keeps it: the codes recorded are 1 to 5 (rule R272). -/
theorem flagsInv_recordError {s : State} (inv : FlagsInv s) (e : ErrCode) : FlagsInv (recordError e s) := by
  obtain ⟨clear, code, last, running⟩ := inv
  have produced : e.code ≠ 0 ∧ e.code.toNat ≤ 5 := by cases e <;> decide
  refine ⟨?_, ?_, by simpa using last, by simpa using running⟩
  · cases recorded : s.err with
    | true => simpa [recorded] using clear
    | false => simpa [recorded] using produced.1
  · rw [recordError_errcode]
    split
    · exact code
    · exact produced.2

theorem flagsInv_complete {s : State} (inv : FlagsInv s) : FlagsInv (complete s) :=
  inv.congr rfl rfl rfl rfl (by simp)

theorem flagsInv_accept {s : State} (inv : FlagsInv s) (v : Word) : FlagsInv (accept v s) := by
  obtain ⟨clear, code, -, -⟩ := inv
  exact ⟨clear, code, rfl, fun _ => rfl⟩

/-- ERR and ERRCODE are cleared together (rule R96). -/
theorem flagsInv_acknowledge {s : State} (inv : FlagsInv s) (v : Word) : FlagsInv (acknowledge v s) := by
  obtain ⟨clear, code, last, running⟩ := inv
  rw [acknowledge_eq, FlagsInv]
  refine ⟨?_, ?_, last, fun busy => by simp [running busy]⟩ <;> dsimp only <;> split
  · simp
  · exact clear
  · decide
  · exact code

/-! ### The events -/

theorem flagsInv_exec {i : Instr} {s t : State} (inv : FlagsInv s) (h : exec i s = .next t) : FlagsInv t := by
  rcases exec_cases i s with ⟨rd, r, -, e⟩ | ⟨d, e⟩ | ⟨hv, m, e⟩ | e | e <;> cases e.symm.trans h
  case inr.inr.inr.inr => exact flagsInv_complete (flagsInv_recordError inv .depth)
  all_goals exact inv.congr rfl rfl rfl rfl (by simp)

theorem flagsInv_completeWord {v : Word} {s t : State} (inv : FlagsInv s) (h : completeWord v s = .next t) :
    FlagsInv t := by
  rcases completeWord_cases v s with ⟨i, -, e⟩ | ⟨err, -, e⟩
  · exact flagsInv_exec inv (e.symm.trans h)
  · cases e.symm.trans h
    exact flagsInv_complete (flagsInv_recordError inv _)

theorem flagsInv_memWrite {s : State} (inv : FlagsInv s) (off : Offset) (size : Size) (v : Word) :
    FlagsInv (memWrite off size v s) := by
  unfold memWrite
  split
  case isFalse => exact flagsInv_recordError inv .access
  rcases writeReg_cases (regAt off) v s with
    e | e | ⟨b, e⟩ | e | ⟨-, e⟩ | ⟨-, e⟩ | ⟨-, d, h, w, m, e⟩ <;> rw [e]
  · exact inv
  · exact flagsInv_resetUnit s
  · exact inv
  · exact flagsInv_acknowledge inv v
  · exact flagsInv_recordError inv .busy
  · exact flagsInv_accept inv v
  · exact inv

theorem flagsInv_memReadState {s : State} (inv : FlagsInv s) (off : Offset) (size : Size) :
    FlagsInv (memReadState off size s) := by
  unfold memReadState
  split
  · exact inv
  · exact flagsInv_recordError inv .access

/-- Taking the next event off the list keeps the invariant. -/
theorem unitInv_setInputs {s : State} (inv : UnitInv s) (rest : List Input) : UnitInv (setInputs rest s) := by
  obtain ⟨flags, held⟩ := unitInv_iff.mp inv
  exact unitInv_iff.mpr ⟨flags, fun low => congrArg (setInputs rest) (held low)⟩

theorem rstn_memReadState (off : Offset) (size : Size) (s : State) : (memReadState off size s).rstn = s.rstn := by
  rcases memReadState_cases off size s with h | h <;> rw [h]
  rfl

theorem rstn_memWrite (off : Offset) (size : Size) (v : Word) (s : State) : (memWrite off size v s).rstn = s.rstn := by
  unfold memWrite
  split
  case isFalse => exact recordError_rstn .access s
  rcases writeReg_cases (regAt off) v s with
    e | e | ⟨b, e⟩ | e | ⟨-, e⟩ | ⟨-, e⟩ | ⟨-, d, h, w, m, e⟩ <;> rw [e] <;> simp

theorem hostRead_of_rstn {s : State} (up : s.rstn = true) (off : Offset) (size : Size) :
    hostRead off size s = reply (memReadValue off size s) (memReadState off size s) :=
  if_pos up

/-- While `rst_n` is low a read returns 0 (rule R310). -/
theorem hostRead_of_rstn_low {s : State} (low : s.rstn = false) (off : Offset) (size : Size) :
    hostRead off size s = reply 0 s :=
  if_neg (by simp [low])

theorem unitInv_hostRead {s : State} (inv : UnitInv s) (off : Offset) (size : Size) :
    UnitInv (hostRead off size s) := by
  obtain ⟨flags, held⟩ := unitInv_iff.mp inv
  cases up : s.rstn with
  | true =>
    rw [hostRead_of_rstn up]
    exact unitInv_of_rstn ((rstn_memReadState off size s).trans up) (flagsInv_memReadState flags off size)
  | false =>
    rw [hostRead_of_rstn_low up]
    exact unitInv_iff.mpr ⟨flags, fun _ => congrArg (reply 0) (held up)⟩

theorem unitInv_hostWrite {s : State} (inv : UnitInv s) (off : Offset) (size : Size) (v : Word) :
    UnitInv (hostWrite off size v s) := by
  cases up : s.rstn with
  | true =>
    rw [hostWrite_of_rstn up]
    exact unitInv_of_rstn ((rstn_memWrite off size v s).trans up) (flagsInv_memWrite (unitInv_iff.mp inv).1 off size v)
  | false =>
    rw [hostWrite_of_rstn_low up]
    exact inv

theorem exec_rstn {i : Instr} {s t : State} (h : exec i s = .next t) : t.rstn = s.rstn := by
  rcases exec_cases i s with ⟨rd, r, -, e⟩ | ⟨d, e⟩ | ⟨hv, m, e⟩ | e | e <;> cases e.symm.trans h <;> simp

theorem completeWord_rstn {v : Word} {s t : State} (h : completeWord v s = .next t) : t.rstn = s.rstn := by
  rcases completeWord_cases v s with ⟨i, -, e⟩ | ⟨err, -, e⟩
  · exact exec_rstn (e.symm.trans h)
  · cases e.symm.trans h
    exact reject_rstn _ s

theorem unitInv_holdReset (s : State) : UnitInv (holdReset s) :=
  unitInv_iff.mpr ⟨flagsInv_reset, fun _ => rfl⟩

/-- Settles O28: every event keeps the invariant. -/
theorem everyStepKeepsTheInvariant : Obligations.EveryStepKeepsTheInvariant := by
  intro s t inv taken
  have next := unitInv_setInputs inv s.inputs.tail
  have flags := (unitInv_iff.mp next).1
  rcases step_cases s with ⟨-, -, h⟩ | ⟨v, pending, -, h⟩ | ⟨off, size, -, h⟩ | ⟨off, size, v, -, h⟩ | ⟨-, h⟩ | ⟨-, h⟩
  case inr.inl =>
    have completes := h.symm.trans taken
    have up := (pendingCommand_eq_some.mp pending).1
    exact unitInv_of_rstn ((completeWord_rstn completes).trans up) (flagsInv_completeWord flags completes)
  all_goals cases h.symm.trans taken
  · exact next
  · exact unitInv_hostRead next off size
  · exact unitInv_hostWrite next off size v
  · exact unitInv_holdReset _
  · exact unitInv_of_rstn rfl flags

/-- Settles O27: the reset values meet each clause. -/
theorem invariantHoldsAfterReset : Obligations.InvariantHoldsAfterReset :=
  unitInv_of_rstn rfl flagsInv_reset

/-! ### Runs -/

/-- Every step has a next state (rule R286). -/
theorem step_next (s : State) : ∃ t, step s = .next t := by
  rcases step_cases s with ⟨-, -, h⟩ | ⟨v, -, -, h⟩ | ⟨off, size, -, h⟩ | ⟨off, size, v, -, h⟩ | ⟨-, h⟩ | ⟨-, h⟩
  case inr.inl => exact h ▸ completeWord_next v _
  all_goals exact ⟨_, h⟩

/-- A run goes on from the state its first step gives. -/
theorem run_succ_of_step {s t : State} (taken : step s = .next t) (n : Nat) :
    Host.Core.run Sys2Proof.core (n + 1) s = Host.Core.run Sys2Proof.core n t := by
  have first : Sys2Proof.core.step s = .next t := taken
  simp only [Host.Core.run, first]

/-- Settles O29, by induction on the number of steps. -/
theorem noRunEverStops : Obligations.NoRunEverStops := by
  intro n
  induction n with
  | zero => exact fun s => ⟨s, rfl⟩
  | succ n ih =>
    intro s
    obtain ⟨t, taken⟩ := step_next s
    obtain ⟨u, rest⟩ := ih t
    exact ⟨u, (run_succ_of_step taken n).trans rest⟩

end Sys2Proof.Machine
end

section
/-! PROOFS. The engine's turn, the level of `rst_n`, and reads (60_exceptions.md section 1, 70_reset_and_hazards.md
section 1, 20_memory.md section 5). -/

namespace Sys2Proof.Machine

/-- The engine's turn completes what `completeWord` completes, when the next event is the turn or there is none. -/
theorem step_engineTurn {s r : State}
    (turn : s.inputs = [] ∧ r = s ∨ ∃ rest, s.inputs = .engine :: rest ∧ r = { s with inputs := rest }) :
    step s = engineTurn r ∧ pendingCommand r = pendingCommand s := by
  rcases turn with ⟨empty, rfl⟩ | ⟨rest, event, rfl⟩
  · exact ⟨by simp only [step, empty], rfl⟩
  · exact ⟨step_engine event, rfl⟩

/-- Settles O7: the turn runs the completion of the pending word, or has nothing to do. -/
theorem stepRunsThePendingCommand : Obligations.StepRunsThePendingCommand := by
  intro s r turn
  obtain ⟨turns, pending⟩ := step_engineTurn turn
  refine ⟨fun up busy => ?_,
    fun idle => turns.trans (engineTurn_idle (pending.trans (pendingCommand_eq_none.mpr idle)))⟩
  have completes : step s = completeWord s.pend r :=
    turns.trans (engineTurn_pending (pending.trans (pendingCommand_eq_some.mpr ⟨up, busy, rfl⟩)))
  rw [completes]
  exact ⟨fun i decodes => completeWord_of_decode decodes r, fun rejected => completeWord_of_decode_error rejected r,
    fun rejected => completeWord_of_decode_error rejected r⟩

/-- Settles O26, event by event. -/
theorem heldInResetNothingHappens : Obligations.HeldInResetNothingHappens := by
  refine ⟨fun s v rest up srst => ?resets, fun s off size v rest low => ⟨fun event => ?write, fun event => ?read,
    fun event => ?engine⟩, fun s rest event => step_resetHigh event⟩
  case resets =>
    have softReset : step { s with inputs := .write 0x000 .four v :: rest } = .next (resetUnit (setInputs rest s)) :=
      Eq.trans (step_write_of_rstn (by exact up) rfl) (congrArg _ (memWrite_ctrl_srst srst _))
    exact ⟨_, softReset, step_resetLow rfl⟩
  case write =>
    rw [step_write event, hostWrite_of_rstn_low (s := setInputs rest s) low]
    rfl
  case read =>
    rw [step_read event, hostRead_of_rstn_low (s := setInputs rest s) low]
    rfl
  case engine =>
    exact (step_engine event).trans (engineTurn_idle (pendingCommand_eq_none.mpr (.inl low)))

/-- No register of the window depends on the events to come or on the values read. -/
theorem readReg_with_bus (s : State) (inputs : List Input) (replies : List Word) (r : WinReg) :
    readReg { s with inputs, replies } r = readReg s r := by
  cases r <;> rfl

/-- A well-formed read out of reset returns the register's value and changes nothing. -/
theorem step_read_four {s : State} {off : Offset} {rest : List Input} (up : s.rstn = true)
    (aligned : off.toNat % 4 = 0) (event : s.inputs = .read off .four :: rest) :
    step s = .next { s with inputs := rest, replies := readReg s (regAt off) :: s.replies } := by
  rw [step_read_of_rstn up event, memReadValue_four aligned, memReadState_four aligned,
    show readReg (setInputs rest s) (regAt off) = readReg s (regAt off) from readReg_with_bus s _ _ _]
  rfl

/-- Settles O30: the second read finds the registers the first one found. -/
theorem readsHaveNoSideEffects : Obligations.ReadsHaveNoSideEffects := by
  intro s off rest up aligned event
  refine ⟨_, _, rfl, step_read_four up aligned event, rfl,
    Eq.trans (step_read_four (by exact up) aligned rfl) ?_⟩
  simp only [readReg_with_bus]

end Sys2Proof.Machine
end

section
/-! PROOFS. What decides whether a command is rejected (70_reset_and_hazards.md section 4). -/

namespace Sys2Proof.Machine

/-- Exceeding the depth bound is a matter of the depth tags. -/
theorem exceedsDepth_congr {s s' : State} (depths : ∀ r : Reg, (readF s r).depth = (readF s' r).depth) (i : Instr) :
    ExceedsDepth i s ↔ ExceedsDepth i s' := by
  simp only [ExceedsDepth, depths]

/-- Settles O47: each outcome of a completion is decided by the word and the depth tags. -/
theorem rejectionDependsOnWordAndDepths : Obligations.RejectionDependsOnWordAndDepths := by
  intro v s s' depths err errcode
  have sameRejection (c : BitVec 4) : (rejectedState c s).err = (rejectedState c s').err ∧
      (rejectedState c s).errcode = (rejectedState c s').errcode := by
    simp only [rejectedState, err, errcode, and_self]
  cases decodes : decode v with
  | error e =>
    exact ⟨_, _, completeWord_of_decode_error decodes s, completeWord_of_decode_error decodes s', sameRejection _⟩
  | ok i =>
    rw [completeWord_of_decode decodes, completeWord_of_decode decodes]
    by_cases exceeds : ExceedsDepth i s
    · exact ⟨_, _, exec_of_exceedsDepth exceeds, exec_of_exceedsDepth ((exceedsDepth_congr depths i).mp exceeds),
        sameRejection 3⟩
    · obtain ⟨t, done, terr, terrcode⟩ := exec_keeps_error exceeds
      obtain ⟨t', done', terr', terrcode'⟩ := exec_keeps_error (mt (exceedsDepth_congr depths i).mpr exceeds)
      exact ⟨t, t', done, done', by rw [terr, err, terr'], by rw [terrcode, errcode, terrcode']⟩

end Sys2Proof.Machine
end

section
/-! PROOFS. What the window reads, and reading back what was written (rules R82–R90). -/

namespace Sys2Proof.Machine

/-- STATUS as a number, by the values of its four fields (rule R49). -/
theorem statusWord_toNat (s : State) : (statusWord s).toNat =
    s.busy.toNat + 2 * s.done.toNat + 4 * s.err.toNat + 16 * s.errcode.toNat := by
  have fields : ∀ (busy done err : Bool) (errcode : BitVec 4),
      (0#24 ++ errcode ++ 0#1 ++ BitVec.ofBool err ++ BitVec.ofBool done ++ BitVec.ofBool busy).toNat =
        busy.toNat + 2 * done.toNat + 4 * err.toNat + 16 * errcode.toNat := by decide
  exact fields s.busy s.done s.err s.errcode

theorem ctrlWord_toNat (s : State) : (ctrlWord s).toNat = s.ie.toNat := by
  cases h : s.ie <;> simp [ctrlWord, h]

theorem loHalf_toNat (x : Lane) : (loHalf x).toNat = x.toNat % 2 ^ 32 := by
  simp [loHalf]

theorem hiHalf_toNat (x : Lane) : (hiHalf x).toNat = x.toNat / 2 ^ 32 := by
  have := x.isLt
  simp only [hiHalf, BitVec.extractLsb'_toNat, Nat.shiftRight_eq_div_pow]
  omega

theorem mlenWord_toNat (x : Count) (m : Fin 4) : (mlenWord x m).toNat = x.toNat / 2 ^ (32 * m.val) % 2 ^ 32 := by
  rw [mlenWord, BitVec.extractLsb'_toNat, Nat.shiftRight_eq_div_pow]

theorem ofDigits_ofFn (b : Nat) {n : Nat} (d : Fin n → Nat) :
    Nat.ofDigits b (List.ofFn d) = ∑ i : Fin n, d i * b ^ i.val := by
  induction n with
  | zero => rfl
  | succ n ih =>
    rw [List.ofFn_succ, Nat.ofDigits_cons, ih, Fin.sum_univ_succ, Finset.mul_sum]
    simp only [Fin.val_zero, pow_zero, mul_one, Fin.val_succ, pow_succ', mul_left_comm]

/-- FDEPTH as the sum of its base-4 digits (rule R51). -/
theorem fdepthWord_toNat_eq_sum (s : State) :
    (fdepthWord s).toNat = ∑ i : Reg, (readF s i).depth.val * 4 ^ i.val := by
  have digits : depthDigits s = List.ofFn fun i : Reg => (readF s i).depth.val :=
    List.ext_getElem (by rw [length_depthDigits, List.length_ofFn]) fun n hn _ => by
      rw [List.getElem_ofFn]
      exact getElem_depthDigits s ⟨n, hn.trans_eq (length_depthDigits s)⟩
  rw [fdepthWord_toNat, digits, ofDigits_ofFn]

/-- Settles O38: each offset reads the register that stands there. -/
theorem windowReadsEachRegister : Obligations.WindowReadsEachRegister := by
  intro s
  have read {n : Nat} {r : WinReg} (at_r : StandsAt n r) (inWindow : n < 2 ^ 12) (aligned : n % 4 = 0) :
      memReadValue (BitVec.ofNat 12 n) .four s = readReg s r := memReadValue_ofNat at_r inWindow aligned s
  refine ⟨?ctrl, ?status, ?cmd, ?id, ?fdepth, fun off aligned reserved => ?reserved, fun k => ?data,
    fun i => ⟨?hLo, ?hHi⟩, fun t => ⟨?wLo, ?wHi⟩, fun m => ?mlen⟩
  case ctrl =>
    exact (congrArg BitVec.toNat (read (n := 0x000) (r := .ctrl) rfl (by omega) rfl)).trans (ctrlWord_toNat s)
  case status =>
    exact (congrArg BitVec.toNat (read (n := 0x004) (r := .status) rfl (by omega) rfl)).trans (statusWord_toNat s)
  case cmd => exact read (n := 0x008) (r := .cmd) rfl (by omega) rfl
  case id => exact read (n := 0x00C) (r := .id) rfl (by omega) rfl
  case fdepth => rw [memReadValue_fdepth, fdepthWord_toNat_eq_sum]
  case reserved => exact memReadValue_four_of_standsAt (r := .reserved) aligned reserved s
  case data => exact read (r := .data k) rfl (by omega) (by omega)
  case hLo => rw [read (r := .hLo i) rfl (by omega) (by omega), readReg, loHalf_toNat]
  case hHi => rw [read (r := .hHi i) rfl (by omega) (by omega), readReg, hiHalf_toNat]
  case wLo => rw [read (r := .wLo t) rfl (by omega) (by omega), readReg, loHalf_toNat]
  case wHi => rw [read (r := .wHi t) rfl (by omega) (by omega), readReg, hiHalf_toNat]
  case mlen => rw [read (r := .mlen m) rfl (by omega) (by omega), readReg, mlenWord_toNat]

/-! ### Slices -/

@[simp] theorem loHalf_setLo (x : Lane) (v : Word) : loHalf (setLo x v) = v :=
  BitVec.extractLsb'_append_eq_right

@[simp] theorem hiHalf_setLo (x : Lane) (v : Word) : hiHalf (setLo x v) = hiHalf x :=
  BitVec.extractLsb'_append_eq_left

@[simp] theorem loHalf_setHi (x : Lane) (v : Word) : loHalf (setHi x v) = loHalf x :=
  BitVec.extractLsb'_append_eq_right

@[simp] theorem hiHalf_setHi (x : Lane) (v : Word) : hiHalf (setHi x v) = v :=
  BitVec.extractLsb'_append_eq_left

/-- Writing the lower half of an entry leaves the upper half of every entry. -/
theorem hiHalf_set_setLo {n : Nat} (x : Vector Lane n) (i j : Fin n) (v : Word) :
    hiHalf (x.set i.val (setLo x[i.val] v))[j.val] = hiHalf x[j.val] := by
  rw [Vector.getElem_set]
  split
  next same => simp only [hiHalf_setLo, same]
  next => rfl

/-- Writing the upper half of an entry leaves the lower half of every entry. -/
theorem loHalf_set_setHi {n : Nat} (x : Vector Lane n) (i j : Fin n) (v : Word) :
    loHalf (x.set i.val (setHi x[i.val] v))[j.val] = loHalf x[j.val] := by
  rw [Vector.getElem_set]
  split
  next same => simp only [loHalf_setHi, same]
  next => rfl

/-- Writing an entry leaves every other one. -/
theorem getElem_set_of_ne {α : Type} {n : Nat} (x : Vector α n) {i j : Fin n} (h : j ≠ i) (a : α) :
    (x.set i.val a)[j.val] = x[j.val] :=
  Vector.getElem_set_ne _ _ fun e => h (Fin.ext e.symm)

theorem mlenWord_setMlenWord_self (x : Count) (m : Fin 4) (v : Word) : mlenWord (setMlenWord x m v) m = v := by
  apply BitVec.eq_of_getLsbD_eq
  intro b hb
  rw [mlenWord, BitVec.getLsbD_extractLsb', getLsbD_setMlenWord x m v (by omega)]
  simp [hb]

theorem mlenWord_setMlenWord_ne (x : Count) {m m' : Fin 4} (h : m' ≠ m) (v : Word) :
    mlenWord (setMlenWord x m v) m' = mlenWord x m' := by
  have h' : m'.val ≠ m.val := fun e => h (Fin.ext e)
  apply BitVec.eq_of_getLsbD_eq
  intro b hb
  rw [mlenWord, mlenWord, BitVec.getLsbD_extractLsb', BitVec.getLsbD_extractLsb',
    getLsbD_setMlenWord x m v (by omega), if_neg (by omega)]

/-! ### Writing an operand register of an idle unit -/

theorem readReg_writeReg_self {r : WinReg} (operand : r.IsOperand) {s : State} (idle : s.busy = false) (v : Word) :
    readReg (writeReg r v s) r = v := by
  cases r with
  | ctrl | status | cmd | id | fdepth | reserved => exact operand.elim
  | data | hLo | hHi | wLo | wHi | mlen =>
    rw [writeReg, writeOperand_of_idle idle]
    simp [readReg, mlenWord_setMlenWord_self]

/-- Every other register reads as before: another entry, the other half of an entry, or another array. -/
theorem readReg_writeReg_ne {r r' : WinReg} (operand : r.IsOperand) (other : r' ≠ r) {s : State}
    (idle : s.busy = false) (v : Word) : readReg (writeReg r v s) r' = readReg s r' := by
  cases r
  case ctrl | status | cmd | id | fdepth | reserved => exact operand.elim
  all_goals rw [writeReg, writeOperand_of_idle idle]
  case data k =>
    cases r' with
    | data k' => exact getElem_set_of_ne _ (fun e => other (congrArg _ e)) v
    | _ => rfl
  case hLo i =>
    cases r' with
    | hLo j => exact congrArg loHalf (getElem_set_of_ne _ (fun e => other (congrArg _ e)) _)
    | hHi j => exact hiHalf_set_setLo s.h i j v
    | _ => rfl
  case hHi i =>
    cases r' with
    | hLo j => exact loHalf_set_setHi s.h i j v
    | hHi j => exact congrArg hiHalf (getElem_set_of_ne _ (fun e => other (congrArg _ e)) _)
    | _ => rfl
  case wLo i =>
    cases r' with
    | wLo j => exact congrArg loHalf (getElem_set_of_ne _ (fun e => other (congrArg _ e)) _)
    | wHi j => exact hiHalf_set_setLo s.w i j v
    | _ => rfl
  case wHi i =>
    cases r' with
    | wLo j => exact loHalf_set_setHi s.w i j v
    | wHi j => exact congrArg hiHalf (getElem_set_of_ne _ (fun e => other (congrArg _ e)) _)
    | _ => rfl
  case mlen m =>
    cases r' with
    | mlen m' => exact mlenWord_setMlenWord_ne s.mlen (fun e => other (congrArg _ e)) v
    | _ => rfl

/-- An operand register stands at one offset. -/
theorem StandsAt.unique {n n' : Nat} {r : WinReg} (at_n : StandsAt n r) (at_n' : StandsAt n' r)
    (operand : r.IsOperand) : n = n' := by
  cases r with
  | ctrl | status | cmd | id | fdepth | reserved => exact operand.elim
  | data | hLo | hHi | wLo | wHi | mlen => exact at_n.trans at_n'.symm

/-- Settles O40, by the registers that stand at the two offsets. -/
theorem operandWritesReadBack : Obligations.OperandWritesReadBack := by
  intro s off v idle aligned lo hi
  have operand := regAt_isOperand aligned lo hi
  rw [memWrite_four aligned]
  refine ⟨by rw [memReadValue_four aligned, readReg_writeReg_self operand idle], fun off' different => ?_⟩
  by_cases aligned' : off'.toNat % 4 = 0
  · have other : regAt off' ≠ regAt off := fun same => by
      have at_off' := regAt_standsAt off' aligned'
      rw [same] at at_off'
      exact different (BitVec.eq_of_toNat_eq (at_off'.unique (regAt_standsAt off aligned) operand))
    rw [memReadValue_four aligned', memReadValue_four aligned', readReg_writeReg_ne operand other idle]
  · rw [memReadValue_malformed (.inr aligned'), memReadValue_malformed (.inr aligned')]

end Sys2Proof.Machine
end

section
/-! SUPPORT. What each command writes, by the command (rules R35, R133). -/

namespace Sys2Proof.Machine

/-- `exec_cases` with the command that writes each result: the commands with a destination write it, FSTORE writes
DATA, SINIT and SCOMP write H and MLEN. -/
theorem exec_writes (i : Instr) (s : State) :
    (∃ rd r, i.fieldDest = some rd ∧ exec i s = .next (complete (writeF rd r s))) ∨
      (∃ rs1 d, i = .fstore rs1 ∧ exec i s = .next (complete { s with data := d })) ∨
      ((i = .sinit ∨ i = .scomp) ∧ ∃ h m, exec i s = .next (complete { s with h := h, mlen := m })) ∨
      exec i s = .next (complete s) ∨ exec i s = .next (reject .depth s) := by
  have sum (op : Fp → Fp → Fp) (rd rs1 rs2 : Reg) (dest : i.fieldDest = some rd)
      (meaning : exec i s = .next (addSub op rd rs1 rs2 s)) :
      (∃ rd r, i.fieldDest = some rd ∧ exec i s = .next (complete (writeF rd r s))) ∨
        exec i s = .next (reject .depth s) := by
    rw [meaning]
    rcases addSub_cases op rd rs1 rs2 s with ⟨-, -, h⟩ | ⟨-, h⟩ <;> rw [h]
    · exact .inl ⟨rd, _, dest, rfl⟩
    · exact .inr rfl
  cases i with
  | nop => exact .inr (.inr (.inr (.inl rfl)))
  | fstore rs1 => exact .inr (.inl ⟨rs1, _, rfl, exec_fstore rs1 s⟩)
  | sinit => exact .inr (.inr (.inl ⟨.inl rfl, _, _, exec_sinit s⟩))
  | scomp => exact .inr (.inr (.inl ⟨.inr rfl, _, _, exec_scomp s⟩))
  | fadd rd rs1 rs2 => exact (sum fpAdd rd rs1 rs2 rfl rfl).imp_right fun h => .inr (.inr (.inr h))
  | fsub rd rs1 rs2 => exact (sum fpSub rd rs1 rs2 rfl rfl).imp_right fun h => .inr (.inr (.inr h))
  | fzero rd | fone rd | fload rd | fmul rd | fsqr rd | finv rd => exact .inl ⟨rd, _, rfl, rfl⟩

end Sys2Proof.Machine
end

section
/-! PROOFS. A command changes what the window reads at STATUS and at its results only (rule R133). -/

namespace Sys2Proof.Machine

section
variable {s : State} {q : WinReg}

theorem readReg_complete (notStatus : q ≠ .status) : readReg (complete s) q = readReg s q := by
  cases q with
  | status => exact absurd rfl notStatus
  | _ => rfl

theorem readReg_reject (e : ErrCode) (notStatus : q ≠ .status) : readReg (reject e s) q = readReg s q := by
  rw [reject_eq]
  cases q with
  | status => exact absurd rfl notStatus
  | _ => rfl

/-- Of a field register the window shows the depth alone. -/
theorem readReg_writeF (rd : Reg) (r : FReg) (notFdepth : q ≠ .fdepth) : readReg (writeF rd r s) q = readReg s q := by
  cases q with
  | fdepth => exact absurd rfl notFdepth
  | _ => rfl

theorem readReg_with_data (d : Vector Word 8) (notData : ∀ k, q ≠ .data k) :
    readReg { s with data := d } q = readReg s q := by
  cases q with
  | data k => exact absurd rfl (notData k)
  | _ => rfl

theorem readReg_with_hash (h : Vector Lane 8) (m : Count) (notLo : ∀ i, q ≠ .hLo i) (notHi : ∀ i, q ≠ .hHi i)
    (notMlen : ∀ k, q ≠ .mlen k) : readReg { s with h := h, mlen := m } q = readReg s q := by
  cases q with
  | hLo i => exact absurd rfl (notLo i)
  | hHi i => exact absurd rfl (notHi i)
  | mlen k => exact absurd rfl (notMlen k)
  | _ => rfl

end

/-- Two states read alike at an offset when they do at the register that stands there. -/
theorem memReadValue_congr {s t : State} {off : Offset} (size : Size)
    (h : ∀ q, StandsAt off.toNat q → readReg t q = readReg s q) :
    memReadValue off size t = memReadValue off size s := by
  by_cases aligned : size = .four ∧ off.toNat % 4 = 0
  · obtain ⟨rfl, aligned⟩ := aligned
    rw [memReadValue_four aligned, memReadValue_four aligned, h _ (regAt_standsAt off aligned)]
  · rw [memReadValue_malformed (not_and_or.mp aligned), memReadValue_malformed (not_and_or.mp aligned)]

theorem resultAt_of_fieldDest {i : Instr} {rd : Reg} (dest : i.fieldDest = some rd) (off : Nat) :
    resultAt i off = (off == 0x010) := by
  cases i with
  | nop | fstore | sinit | scomp => cases dest
  | _ => rfl

/-- The window frame of each command, register by register. -/
theorem exec_window_frame (i : Instr) (s : State) : ∃ t, exec i s = .next t ∧
    ∀ n q, StandsAt n q → n ≠ 0x004 → resultAt i n = false → readReg t q = readReg s q := by
  have notStatus {n q} (place : StandsAt n q) (h : n ≠ 0x004) : q ≠ .status := fun e => h (by rwa [e] at place)
  rcases exec_writes i s with ⟨rd, r, dest, e⟩ | ⟨rs1, d, rfl, e⟩ | ⟨hash, h, m, e⟩ | e | e <;>
    refine ⟨_, e, fun n q place status result => ?_⟩
  · rw [resultAt_of_fieldDest dest] at result
    rw [readReg_complete (notStatus place status), readReg_writeF]
    rintro rfl
    have offset : n = 0x010 := place
    simp [offset] at result
  · rw [readReg_complete (notStatus place status), readReg_with_data]
    rintro k rfl
    simp only [resultAt, Bool.and_eq_false_iff, decide_eq_false_iff_not] at result
    simp only [StandsAt] at place
    omega
  · have outside : ¬ (0x040 ≤ n ∧ n < 0x080) ∧ ¬ (0x100 ≤ n ∧ n < 0x110) := by
      rcases hash with rfl | rfl <;> simpa [resultAt] using result
    rw [readReg_complete (notStatus place status), readReg_with_hash]
    all_goals
      rintro k rfl
      simp only [StandsAt] at place
      omega
  · exact readReg_complete (notStatus place status)
  · exact readReg_reject .depth (notStatus place status)

/-- Settles O23: an offset reads the register that stands there, and a malformed access reads 0. -/
theorem commandsLeaveTheRestOfTheWindow : Obligations.CommandsLeaveTheRestOfTheWindow := by
  intro i s
  obtain ⟨t, completes, frame⟩ := exec_window_frame i s
  exact ⟨t, completes, fun off size status result =>
    memReadValue_congr size fun q place => frame _ q place status result⟩

end Sys2Proof.Machine
end

section
/-! PROOFS. Each register changes only by its writers (10_state.md sections 3 to 6). -/

namespace Sys2Proof.Machine

/-- Every register that `t` changes of `s` is changed by one of its writers: a command that completes, or a host write
at its offsets. -/
def ChangesByWriters (s t : State) : Prop :=
  (∀ r : Reg, readF t r ≠ readF s r → ∃ v i, NextCompletes s v ∧ decode v = .ok i ∧ i.fieldDest = some r) ∧
  (t.w ≠ s.w → NextWrites s 0x080 0x100) ∧
  (t.data ≠ s.data → NextWrites s 0x020 0x040 ∨ ∃ v r, NextCompletes s v ∧ decode v = .ok (.fstore r)) ∧
  (t.h ≠ s.h → NextWrites s 0x040 0x080 ∨
    ∃ v, NextCompletes s v ∧ (decode v = .ok .sinit ∨ decode v = .ok .scomp)) ∧
  (t.mlen ≠ s.mlen → NextWrites s 0x100 0x110 ∨
    ∃ v, NextCompletes s v ∧ (decode v = .ok .sinit ∨ decode v = .ok .scomp)) ∧
  (t.ie ≠ s.ie → NextWrites { s with busy := false } 0x000 0x004) ∧
  (t.lastcmd ≠ s.lastcmd → NextWrites s 0x008 0x00C) ∧
  (t.pend ≠ s.pend → NextWrites s 0x008 0x00C) ∧
  (t.busy ≠ s.busy → NextWrites s 0x008 0x00C ∨ ∃ v, NextCompletes s v)

/-- A register that `t` does not change needs no writer. -/
theorem changesByWriters_intro {s t : State}
    (f : ∀ r : Reg, readF t r ≠ readF s r → ∃ v i, NextCompletes s v ∧ decode v = .ok i ∧ i.fieldDest = some r := by
      exact fun _ h => absurd rfl h)
    (w : t.w ≠ s.w → NextWrites s 0x080 0x100 := by exact fun h => absurd rfl h)
    (data : t.data ≠ s.data → NextWrites s 0x020 0x040 ∨ ∃ v r, NextCompletes s v ∧ decode v = .ok (.fstore r) := by
      exact fun h => absurd rfl h)
    (h : t.h ≠ s.h → NextWrites s 0x040 0x080 ∨
      ∃ v, NextCompletes s v ∧ (decode v = .ok .sinit ∨ decode v = .ok .scomp) := by exact fun h => absurd rfl h)
    (mlen : t.mlen ≠ s.mlen → NextWrites s 0x100 0x110 ∨
      ∃ v, NextCompletes s v ∧ (decode v = .ok .sinit ∨ decode v = .ok .scomp) := by exact fun h => absurd rfl h)
    (ie : t.ie ≠ s.ie → NextWrites { s with busy := false } 0x000 0x004 := by exact fun h => absurd rfl h)
    (lastcmd : t.lastcmd ≠ s.lastcmd → NextWrites s 0x008 0x00C := by exact fun h => absurd rfl h)
    (pend : t.pend ≠ s.pend → NextWrites s 0x008 0x00C := by exact fun h => absurd rfl h)
    (busy : t.busy ≠ s.busy → NextWrites s 0x008 0x00C ∨ ∃ v, NextCompletes s v := by exact fun h => absurd rfl h) :
    ChangesByWriters s t :=
  ⟨f, w, data, h, mlen, ie, lastcmd, pend, busy⟩

theorem changesByWriters_completion {s t : State} {v : Word} {rest : List Input} (completes : NextCompletes s v)
    (h : completeWord v (setInputs rest s) = .next t) : ChangesByWriters s t := by
  have finished : ∃ v, NextCompletes s v := ⟨v, completes⟩
  rcases completeWord_cases v (setInputs rest s) with ⟨i, decodes, e⟩ | ⟨err, -, e⟩
  case inr =>
    rw [reject_eq_rejectedState] at e
    cases e.symm.trans h
    exact changesByWriters_intro (busy := fun _ => .inr finished)
  have writes := exec_writes i (setInputs rest s)
  rw [reject_eq_rejectedState] at writes
  rcases writes with
      ⟨rd, r, dest, e'⟩ | ⟨rs1, d, rfl, e'⟩ | ⟨hash, h', m, e'⟩ | e' | e' <;>
    cases (e.trans e').symm.trans h
  · refine changesByWriters_intro (f := fun r' changed => ⟨v, i, completes, decodes, ?_⟩)
      (busy := fun _ => .inr finished)
    by_contra other
    exact changed (readF_writeF_ne rd r' r (setInputs rest s) fun same => other (same ▸ dest))
  · exact changesByWriters_intro (data := fun _ => .inr ⟨v, rs1, completes, decodes⟩) (busy := fun _ => .inr finished)
  · have hashes : ∃ v, NextCompletes s v ∧ (decode v = .ok .sinit ∨ decode v = .ok .scomp) := by
      rcases hash with rfl | rfl
      · exact ⟨v, completes, .inl decodes⟩
      · exact ⟨v, completes, .inr decodes⟩
    exact changesByWriters_intro (h := fun _ => .inr hashes) (mlen := fun _ => .inr hashes)
      (busy := fun _ => .inr finished)
  · exact changesByWriters_intro (busy := fun _ => .inr finished)
  · exact changesByWriters_intro (busy := fun _ => .inr finished)

theorem changesByWriters_erredState (s : State) (rest : List Input) (c : BitVec 4) :
    ChangesByWriters s (erredState c (setInputs rest s)) :=
  changesByWriters_intro

/-- A write to an operand register, refused by a busy unit and taken by an idle one. -/
theorem changesByWriters_writeReg_operand {s : State} {off : Offset} {v : Word} {rest : List Input} {r : WinReg}
    (up : s.rstn = true) (event : s.inputs.head? = some (.write off .four v)) (aligned : off.toNat % 4 = 0)
    (place : StandsAt off.toNat r) (operand : r.IsOperand) :
    ChangesByWriters s (writeReg r v (setInputs rest s)) := by
  cases busy : s.busy with
  | true =>
    rw [writeReg_operand_of_busy (s := setInputs rest s) operand busy]
    exact changesByWriters_erredState s rest 4
  | false =>
    have writes {lo hi : Nat} (h : lo ≤ off.toNat) (h' : off.toNat < hi) : NextWrites s lo hi :=
      ⟨off, v, up, busy, event, aligned, h, h'⟩
    cases r
    case ctrl | status | cmd | id | fdepth | reserved => exact operand.elim
    all_goals
      simp only [StandsAt] at place
      rw [writeReg, writeOperand_of_idle (s := setInputs rest s) busy]
    case data k => exact changesByWriters_intro (data := fun _ => .inl (writes (by omega) (by omega)))
    case hLo i | hHi i => exact changesByWriters_intro (h := fun _ => .inl (writes (by omega) (by omega)))
    case wLo i | wHi i => exact changesByWriters_intro (w := fun _ => writes (by omega) (by omega))
    case mlen m => exact changesByWriters_intro (mlen := fun _ => .inl (writes (by omega) (by omega)))

theorem changesByWriters_writeReg {s : State} {off : Offset} {v : Word} {rest : List Input} {r : WinReg}
    (up : s.rstn = true) (event : s.inputs.head? = some (.write off .four v)) (aligned : off.toNat % 4 = 0)
    (place : StandsAt off.toNat r) (noReset : ¬ NextResets s) :
    ChangesByWriters s (writeReg r v (setInputs rest s)) := by
  cases r with
  | ctrl =>
    obtain rfl : off = 0x000 := BitVec.eq_of_toNat_eq place
    have srst : ¬ v.getLsbD 1 = true := fun h => noReset (.inr ⟨v, up, event, h⟩)
    rw [writeReg, writeCtrl, if_neg srst]
    exact changesByWriters_intro (ie := fun _ => ⟨0x000, v, up, rfl, event, rfl, by decide, by decide⟩)
  | status => exact changesByWriters_intro
  | cmd =>
    obtain rfl : off = 0x008 := BitVec.eq_of_toNat_eq place
    cases busy : s.busy with
    | true =>
      rw [writeReg_cmd_of_busy (s := setInputs rest s) busy]
      exact changesByWriters_erredState s rest 4
    | false =>
      have writes : NextWrites s 0x008 0x00C := ⟨0x008, v, up, busy, event, rfl, by decide, by decide⟩
      rw [writeReg, if_neg (by simp [busy])]
      exact changesByWriters_intro (lastcmd := fun _ => writes) (pend := fun _ => writes) (busy := fun _ => .inl writes)
  | id | fdepth | reserved => exact changesByWriters_intro
  | data | hLo | hHi | wLo | wHi | mlen => exact changesByWriters_writeReg_operand up event aligned place trivial

theorem changesByWriters_hostWrite {s : State} {off : Offset} {size : Size} {v : Word} {rest : List Input}
    (event : s.inputs.head? = some (.write off size v)) (noReset : ¬ NextResets s) :
    ChangesByWriters s (hostWrite off size v (setInputs rest s)) := by
  cases up : s.rstn with
  | false =>
    rw [hostWrite_of_rstn_low (s := setInputs rest s) up]
    exact changesByWriters_intro
  | true =>
    rw [hostWrite_of_rstn (s := setInputs rest s) up]
    by_cases aligned : size = .four ∧ off.toNat % 4 = 0
    · obtain ⟨rfl, aligned⟩ := aligned
      rw [memWrite_four aligned]
      exact changesByWriters_writeReg up event aligned (regAt_standsAt off aligned) noReset
    · rw [memWrite_malformed (not_and_or.mp aligned)]
      exact changesByWriters_erredState s rest 5

theorem changesByWriters_hostRead (s : State) (rest : List Input) (off : Offset) (size : Size) :
    ChangesByWriters s (hostRead off size (setInputs rest s)) := by
  unfold hostRead
  split
  · rcases memReadState_cases off size (setInputs rest s) with h | h <;> rw [h]
    · exact changesByWriters_intro
    · exact changesByWriters_erredState s rest 5
  · exact changesByWriters_intro

/-- Settles O44, event by event. -/
theorem registersChangeOnlyByTheirWriters : Obligations.RegistersChangeOnlyByTheirWriters := by
  intro s t taken noReset
  rcases step_cases s with ⟨-, -, h⟩ | ⟨v, pending, turn, h⟩ | ⟨off, size, -, h⟩ | ⟨off, size, v, event, h⟩ |
    ⟨event, h⟩ | ⟨-, h⟩
  case inr.inl =>
    obtain ⟨up, busy, rfl⟩ := pendingCommand_eq_some.mp pending
    exact changesByWriters_completion ⟨up, busy, rfl, turn⟩ (h.symm.trans taken)
  all_goals cases h.symm.trans taken
  · exact changesByWriters_intro
  · exact changesByWriters_hostRead s _ off size
  · exact changesByWriters_hostWrite event noReset
  · exact absurd (.inl event) noReset
  · exact changesByWriters_intro

end Sys2Proof.Machine
end

section
/-! PROOFS. SINIT and SCOMP (42_sha512.md sections 3 and 4). -/

namespace Sys2Proof.Machine

/-- A word whose opcode uses no field is E_RSVD when it has a bit from 8 up. -/
theorem decode_eq_rsvd_of_no_fields {v : Word} (op : Opcode) (uses : op.uses = ⟨false, false, false⟩)
    (opc : v.toNat % 2 ^ 8 = op.byte.toNat) (nonzero : v.toNat / 2 ^ 8 ≠ 0) : decode v = .error .rsvd := by
  refine decode_eq_rsvd_of_toNat op opc fun rd rs1 rs2 rsvd => nonzero ?_
  have := rd (by rw [uses])
  have := rs1 (by rw [uses])
  have := rs2 (by rw [uses])
  omega

/-- Settles O20: SINIT's constants are those of the statement. -/
theorem sinitRule : Obligations.SinitRule :=
  ⟨fun s => ⟨_, exec_sinit s, rfl, rfl, rfl, rfl, rfl, completionFrame_complete { s with h := _, mlen := 0 }⟩,
    decode_encode .sinit, fun _ opc nonzero => decode_eq_rsvd_of_no_fields .sinit rfl opc nonzero⟩

/-! ### The schedule -/

/-- The words from index 16 on follow the recurrence of rule R238. -/
def FollowsSchedule (ws : List Lane) : Prop :=
  ∀ n, 16 ≤ n → n < ws.length → ws.getD n 0 =
    smallSigma1 (ws.getD (n - 2) 0) + ws.getD (n - 7) 0 + smallSigma0 (ws.getD (n - 15) 0) + ws.getD (n - 16) 0

/-- One more word keeps the recurrence: the words before it stay, and it is made of them. -/
theorem followsSchedule_append {ws : List Lane} (follows : FollowsSchedule ws) :
    FollowsSchedule (ws ++ [scheduleNext ws]) := by
  intro n lo hi
  have old {m : Nat} (h : m < ws.length) : (ws ++ [scheduleNext ws]).getD m 0 = ws.getD m 0 :=
    List.getD_append _ _ _ _ h
  rw [List.length_append, List.length_singleton] at hi
  rw [old (m := n - 2) (by omega), old (m := n - 7) (by omega), old (m := n - 15) (by omega),
    old (m := n - 16) (by omega)]
  by_cases isOld : n < ws.length
  · rw [old isOld, follows n lo isOld]
  · obtain rfl : n = ws.length := by omega
    rw [List.getD_append_right _ _ _ _ le_rfl, Nat.sub_self]
    rfl

theorem scheduleExtend_spec (k : Nat) {ws : List Lane} (follows : FollowsSchedule ws) :
    (scheduleExtend k ws).length = ws.length + k ∧ FollowsSchedule (scheduleExtend k ws) ∧
      ∀ n, n < ws.length → (scheduleExtend k ws).getD n 0 = ws.getD n 0 := by
  induction k generalizing ws with
  | zero => exact ⟨rfl, follows, fun _ _ => rfl⟩
  | succ k ih =>
    obtain ⟨length, recurrence, old⟩ := ih (followsSchedule_append follows)
    rw [List.length_append, List.length_singleton] at length old
    refine ⟨by rw [scheduleExtend, length]; omega, recurrence, fun n hn => ?_⟩
    rw [scheduleExtend, old n (by omega), List.getD_append _ _ _ _ hn]

/-- The schedule has eighty words: the block's sixteen and those of the recurrence (rule R238). -/
theorem messageSchedule_spec (block : Vector Lane 16) :
    (messageSchedule block).length = 80 ∧ FollowsSchedule (messageSchedule block) ∧
      ∀ n : Fin 16, (messageSchedule block).getD n.val 0 = block[n.val] := by
  have length : block.toList.length = 16 := Vector.length_toList
  obtain ⟨l, recurrence, old⟩ :=
    scheduleExtend_spec 64 (ws := block.toList) fun n lo hi => absurd hi (by omega)
  refine ⟨by rw [messageSchedule, l, length], recurrence, fun n => ?_⟩
  rw [messageSchedule, old n.val (by omega), List.getD_eq_getElem _ _ (by omega), Vector.getElem_toList]

/-! ### The rounds -/

theorem length_roundConstants : roundConstants.length = 80 := rfl

/-- The rounds over two lists with one more constant and word are one more round. -/
theorem shaRounds_append_singleton (ks ws : List Lane) (same : ks.length = ws.length) (k w : Lane) (v : Working) :
    shaRounds (ks ++ [k]) (ws ++ [w]) v = shaRound (shaRounds ks ws v) k w := by
  induction ks generalizing ws v with
  | nil =>
    obtain rfl : ws = [] := List.length_eq_zero_iff.mp same.symm
    rfl
  | cons x xs ih =>
    cases ws with
    | nil => simp at same
    | cons y ys => exact ih ys (by simpa using same) (shaRound v x y)

/-- The working variables after `n` rounds (rule R239). -/
def workingAfter (h : Vector Lane 8) (block : Vector Lane 16) (n : Nat) : Working :=
  shaRounds (roundConstants.take n) ((messageSchedule block).take n) (workingOf h)

theorem workingAfter_succ (h : Vector Lane 8) (block : Vector Lane 16) {n : Nat} (hn : n < 80) :
    workingAfter h block (n + 1) =
      shaRound (workingAfter h block n) (roundConstants.getD n 0) ((messageSchedule block).getD n 0) := by
  have length := (messageSchedule_spec block).1
  have take (l : List Lane) (hl : l.length = 80) : l.take (n + 1) = l.take n ++ [l.getD n 0] := by
    rw [List.take_succ_eq_append_getElem (by omega), List.getD_eq_getElem _ _ (by omega)]
  rw [workingAfter, take _ length_roundConstants, take _ length, shaRounds_append_singleton]
  · rfl
  · rw [List.length_take, List.length_take, length_roundConstants, length]

theorem workingAfter_eighty (h : Vector Lane 8) (block : Vector Lane 16) :
    workingAfter h block 80 = shaRounds roundConstants (messageSchedule block) (workingOf h) := by
  rw [workingAfter, List.take_of_length_le length_roundConstants.le,
    List.take_of_length_le (messageSchedule_spec block).1.le]

theorem workingAfter_zero (h : Vector Lane 8) (block : Vector Lane 16) : workingAfter h block 0 = workingOf h := by
  rw [workingAfter, List.take_zero, List.take_zero]
  rfl

/-- The compression adds the working variables after eighty rounds to the chaining value (rule R240). -/
theorem compress_eq (h : Vector Lane 8) (block : Vector Lane 16) :
    compress h block =
      #v[h[0] + (workingAfter h block 80).a, h[1] + (workingAfter h block 80).b, h[2] + (workingAfter h block 80).c,
        h[3] + (workingAfter h block 80).d, h[4] + (workingAfter h block 80).e, h[5] + (workingAfter h block 80).f,
        h[6] + (workingAfter h block 80).g, h[7] + (workingAfter h block 80).h] := by
  rw [workingAfter_eighty, compress]

/-- Settles O21: the schedule and the rounds follow their recurrences up to index 80. -/
theorem scompRule : Obligations.ScompRule := by
  refine ⟨fun s => ?_, decode_encode .scomp, fun _ opc nonzero => decode_eq_rsvd_of_no_fields .scomp rfl opc nonzero⟩
  obtain ⟨length, recurrence, block⟩ := messageSchedule_spec s.w
  refine ⟨_, fun n => (messageSchedule s.w).getD n 0, workingAfter s.h s.w, exec_scomp s, block,
    fun n lo hi => recurrence n lo ?_, workingAfter_zero s.h s.w, fun n hn => ?_, compress_eq s.h s.w,
    BitVec.toNat_add s.mlen 1024, rfl, rfl, rfl, completionFrame_complete { s with h := _, mlen := _ }⟩
  · rwa [length]
  · exact workingAfter_succ s.h s.w hn

end Sys2Proof.Machine
end

section
/-! PROOFS. The constants of SHA-512 (42_sha512.md section 2). -/

namespace Sys2Proof.Machine

/-- Trial division by the numbers from 2 to 20. -/
def trialPrime (n : Nat) : Bool := decide (2 ≤ n) && (List.range 21).all fun d => d < 2 || n % d != 0 || d == n

theorem trialPrime_iff {n : Nat} : trialPrime n = true ↔ 2 ≤ n ∧ ∀ d < 21, 2 ≤ d → d ∣ n → d = n := by
  simp only [trialPrime, Bool.and_eq_true, decide_eq_true_eq, List.all_eq_true, List.mem_range, Bool.or_eq_true,
    bne_iff_ne, beq_iff_eq, Nat.dvd_iff_mod_eq_zero]
  refine and_congr_right fun _ => forall₂_congr fun d _ => ?_
  generalize n % d = r
  omega

/-- It decides primality below 441 = 21². -/
theorem trialPrime_iff_prime {n : Nat} (hn : n < 441) : trialPrime n = true ↔ n.Prime := by
  rw [trialPrime_iff]
  constructor
  · rintro ⟨two, trial⟩
    by_contra composite
    have square : n.minFac ^ 2 ≤ n := Nat.minFac_sq_le_self (by omega) composite
    have small : n.minFac < 21 := lt_of_pow_lt_pow_left₀ 2 (by omega) (square.trans_lt (by omega))
    have prime : n.minFac.Prime := Nat.minFac_prime (by omega)
    exact composite (trial _ small prime.two_le n.minFac_dvd ▸ prime)
  · intro prime
    exact ⟨prime.two_le, fun d _ two dvd => (prime.eq_one_or_self_of_dvd d dvd).resolve_left (by omega)⟩

/-- The entries of a filtered initial segment are the first numbers that pass, in order. -/
theorem nth_eq_of_getElem?_filter_range (p : Nat → Prop) [DecidablePred p] {N t x : Nat}
    (h : ((List.range N).filter (p ·))[t]? = some x) : Nat.nth p t = x := by
  induction N with
  | zero => simp at h
  | succ N ih =>
    have count : ((List.range N).filter (p ·)).length = Nat.count p N := List.countP_eq_length_filter.symm
    rw [List.range_succ, List.filter_append] at h
    by_cases old : t < ((List.range N).filter (p ·)).length
    · exact ih (by rwa [List.getElem?_append_left old] at h)
    · rw [List.getElem?_append_right (not_lt.mp old)] at h
      by_cases passes : p N
      · rw [List.filter_cons_of_pos (by simpa using passes), List.filter_nil, List.getElem?_singleton] at h
        split at h <;> cases h
        obtain rfl : t = Nat.count p x := by omega
        exact Nat.nth_count passes
      · simp [passes] at h

/-- The first eighty primes. -/
def firstPrimes : List Nat :=
  [2, 3, 5, 7, 11, 13, 17, 19, 23, 29, 31, 37, 41, 43, 47, 53,
   59, 61, 67, 71, 73, 79, 83, 89, 97, 101, 103, 107, 109, 113, 127, 131,
   137, 139, 149, 151, 157, 163, 167, 173, 179, 181, 191, 193, 197, 199, 211, 223,
   227, 229, 233, 239, 241, 251, 257, 263, 269, 271, 277, 281, 283, 293, 307, 311,
   313, 317, 331, 337, 347, 349, 353, 359, 367, 373, 379, 383, 389, 397, 401, 409]

theorem firstPrimes_eq_filter : firstPrimes = (List.range 410).filter trialPrime := by decide +kernel

theorem nth_prime_eq {t : Nat} (ht : t < 80) : Nat.nth Nat.Prime t = firstPrimes.getD t 0 := by
  have length : firstPrimes.length = 80 := rfl
  have filter : firstPrimes = (List.range 410).filter (Nat.Prime ·) := by
    rw [firstPrimes_eq_filter]
    refine List.filter_congr fun n hn => ?_
    rw [Bool.eq_iff_iff, trialPrime_iff_prime ((List.mem_range.mp hn).trans (by decide)), decide_eq_true_iff]
  refine nth_eq_of_getElem?_filter_range Nat.Prime (N := 410) ?_
  rw [← filter, List.getD_eq_getElem _ _ (by omega), List.getElem?_eq_getElem]

/-- The number whose integer part is the integer part of `p`'s `k`-th root and whose fraction, of 64 bits, is `x`. -/
def rootCandidate (k p : Nat) (x : Lane) : Nat := Nat.findGreatest (fun n => n ^ k ≤ p) 20 * 2 ^ 64 + x.toNat

theorem rootCandidate_mod (k p : Nat) (x : Lane) : rootCandidate k p x % 2 ^ 64 = x.toNat := by
  rw [rootCandidate, Nat.mul_add_mod_self_right, Nat.mod_eq_of_lt x.isLt]

theorem roundConstants_bounds : ∀ t < 80,
    rootCandidate 3 (firstPrimes.getD t 0) (roundConstants.getD t 0) ^ 3 ≤ firstPrimes.getD t 0 * 2 ^ 192 ∧
      firstPrimes.getD t 0 * 2 ^ 192 < (rootCandidate 3 (firstPrimes.getD t 0) (roundConstants.getD t 0) + 1) ^ 3 := by
  decide +kernel

theorem initialChaining_bounds : ∀ i : Fin 8,
    rootCandidate 2 (firstPrimes.getD i.val 0) initialChaining[i.val] *
        rootCandidate 2 (firstPrimes.getD i.val 0) initialChaining[i.val] ≤ firstPrimes.getD i.val 0 * 2 ^ 128 ∧
      firstPrimes.getD i.val 0 * 2 ^ 128 < (rootCandidate 2 (firstPrimes.getD i.val 0) initialChaining[i.val] + 1) *
        (rootCandidate 2 (firstPrimes.getD i.val 0) initialChaining[i.val] + 1) := by
  decide +kernel

/-- Settles O24: the integer part of each root, followed by the constant, is the root's floor at 64 binary places. -/
theorem shaConstantsAreRootsOfPrimes : Obligations.ShaConstantsAreRootsOfPrimes := by
  refine ⟨length_roundConstants, fun t ht => ?_, fun i => ?_⟩
  · rw [nth_prime_eq ht]
    obtain ⟨lower, upper⟩ := roundConstants_bounds t ht
    exact ⟨_, lower, upper, (rootCandidate_mod 3 _ _).symm⟩
  · rw [nth_prime_eq (by omega), ← Nat.eq_sqrt.mpr (initialChaining_bounds i), rootCandidate_mod]

end Sys2Proof.Machine
end

section
/-! PROOFS. `run X` for every number of polls (30_encoding.md section 5). -/

namespace Sys2Proof.Machine

/-- The shared meaning of FADD and FSUB carries the events and the values read along. -/
theorem addSub_with_bus (op : Fp → Fp → Fp) (rd rs1 rs2 : Reg) (s : State) (inputs : List Input)
    (replies : List Word) :
    addSub op rd rs1 rs2 { s with inputs, replies } = { addSub op rd rs1 rs2 s with inputs, replies } := by
  rcases addSub_cases op rd rs1 rs2 s with ⟨depth1, depth2, sum⟩ | ⟨depth, rejection⟩
  · rw [sum]
    exact addSub_of_depth_zero depth1 depth2
  · rw [rejection, reject_eq_rejectedState]
    exact addSub_of_depth_one depth

/-- No command depends on the events to come or the values read, and none changes them. -/
theorem exec_with_bus (i : Instr) (s : State) : ∃ u, exec i s = .next u ∧
    ∀ inputs replies, exec i { s with inputs, replies } = .next { u with inputs, replies } := by
  cases i with
  | fadd rd rs1 rs2 =>
    exact ⟨_, exec_fadd rd rs1 rs2 s, fun _ _ => congrArg _ (addSub_with_bus fpAdd rd rs1 rs2 s _ _)⟩
  | fsub rd rs1 rs2 =>
    exact ⟨_, exec_fsub rd rs1 rs2 s, fun _ _ => congrArg _ (addSub_with_bus fpSub rd rs1 rs2 s _ _)⟩
  | nop | fzero | fone | fload | fstore | fmul | fsqr | finv | sinit | scomp => exact ⟨_, rfl, fun _ _ => rfl⟩

theorem statusWord_done (s : State) : (statusWord s).getLsbD 1 = s.done := by
  rw [statusWord, BitVec.getLsbD_append, BitVec.getLsbD_append]
  simp

/-- A poll of STATUS out of reset returns it and changes nothing. -/
theorem step_poll {s : State} {rest : List Input} (up : s.rstn = true) (event : s.inputs = rdWord 0x004 :: rest) :
    step s = .next { s with inputs := rest, replies := statusWord s :: s.replies } :=
  step_read_four up rfl event

/-- Any number of polls leaves the unit as it is. -/
theorem run_polls (polls n : Nat) {s : State} {rest : List Input} (up : s.rstn = true)
    (events : s.inputs = List.replicate polls (rdWord 0x004) ++ rest) : ∃ replies,
    Host.Core.run Sys2Proof.core (polls + n) s =
      Host.Core.run Sys2Proof.core n { s with inputs := rest, replies } := by
  induction polls generalizing s with
  | zero =>
    obtain rfl : s.inputs = rest := events
    exact ⟨s.replies, by rw [Nat.zero_add]⟩
  | succ polls ih =>
    obtain ⟨replies, run⟩ := ih (s := { s with inputs := _, replies := statusWord s :: s.replies }) up rfl
    refine ⟨replies, ?_⟩
    rw [Nat.succ_add]
    exact (run_succ_of_step (step_poll up events) _).trans run

/-- Settles O48: the acceptance, the polls, the completion, and the poll that finds DONE. -/
theorem latencyDoesNotMatter : Obligations.LatencyDoesNotMatter := by
  intro s x polls up idle
  obtain ⟨u, completes, withBus⟩ := exec_with_bus x (accept (encode x) s)
  have accepted : step { s with inputs := (Pseudo.run x polls).expand } =
      .next (accept (encode x) { s with inputs := waitInputs polls }) :=
    Eq.trans (step_write_of_rstn (by exact up) rfl) (congrArg _ (memWrite_cmd_of_idle (by exact idle) _))
  obtain ⟨replies, polled⟩ := run_polls polls 2 (s := accept (encode x) { s with inputs := waitInputs polls }) up rfl
  have turn : step { accept (encode x) s with inputs := [.engine, rdWord 0x004], replies } =
      .next { u with inputs := [rdWord 0x004], replies } :=
    (step_engine rfl).trans ((engineTurn_pending (pendingCommand_eq_some.mpr ⟨by exact up, rfl, rfl⟩)).trans
      ((completeWord_of_decode (decode_encode x) _).trans (withBus _ _)))
  have running : u.rstn = true := (exec_rstn completes).trans up
  refine ⟨{ u with inputs := [], replies := statusWord u :: replies }, u, ?_, completes, rfl, rfl, _, rfl, ?_⟩
  · rw [run_succ_of_step accepted, polled]
    refine (run_succ_of_step turn 1).trans ((run_succ_of_step (step_poll ?_ rfl) 0).trans rfl)
    exact running
  · rw [statusWord_done]
    exact (exec_done_ie completes).1

end Sys2Proof.Machine
end

section
/-! PROOFS. The host's byte conventions (20_memory.md section 3, 30_encoding.md section 5). -/

namespace Sys2Proof.Machine

/-! ### Bytes of strings -/

/-- Byte `j` of the integer of a string is the string's byte `j` (rule R11). -/
theorem ofNat_leValue_div (bs : List Byte) (j : Nat) : BitVec.ofNat 8 (leValue bs / 2 ^ (8 * j)) = bs.getD j 0 := by
  induction bs generalizing j with
  | nil => simp [leValue]
  | cons b bs ih =>
    cases j with
    | zero =>
      apply BitVec.eq_of_toNat_eq
      simp only [Nat.mul_zero, pow_zero, Nat.div_one, leValue, BitVec.toNat_ofNat, List.getD_cons_zero,
        Nat.add_mul_mod_self_left]
      exact Nat.mod_eq_of_lt b.isLt
    | succ j =>
      have shift : (b.toNat + 2 ^ 8 * leValue bs) / 2 ^ 8 = leValue bs := by have := b.isLt; omega
      rw [leValue, Nat.mul_succ, Nat.add_comm (8 * j), pow_add, ← Nat.div_div_eq_div_mul, shift, ih,
        List.getD_cons_succ]

theorem getD_bytesAt (b : List Byte) (i : Nat) {n j : Nat} (hj : j < n) :
    (bytesAt b i n).getD j 0 = b.getD (i + j) 0 := by
  simp [bytesAt, List.getD_eq_getElem?_getD, hj]

/-- A word written from four bytes, the first the least significant. -/
theorem extractLsb'_ofNat_leValue (b : List Byte) (i : Nat) {j : Nat} (hj : j < 4) :
    (BitVec.ofNat 32 (leValue (bytesAt b i 4))).extractLsb' (8 * j) 8 = b.getD (i + j) 0 := by
  rw [extractLsb'_ofNat_eight _ (by omega), ofNat_leValue_div, getD_bytesAt b i hj]

/-- A word written from four bytes, the first the most significant. -/
theorem extractLsb'_ofNat_beValue (m : List Byte) (i : Nat) (long : i + 4 ≤ m.length) {j : Nat} (hj : j < 4) :
    (BitVec.ofNat 32 (beValue (bytesAt m i 4))).extractLsb' (24 - 8 * j) 8 = m.getD (i + j) 0 := by
  have length : (bytesAt m i 4).length = 4 := by simp [bytesAt]; omega
  have place : 24 - 8 * j = 8 * (3 - j) := by omega
  rw [place, extractLsb'_ofNat_eight _ (by omega), beValue, ofNat_leValue_div, ← getD_bytesAt m i hj]
  rw [List.getD_reverse _ (by omega), length]
  congr 1
  omega

/-! ### Writing all entries of an array -/

/-- The entries at the indices of `ks` set to the values `f` gives them. -/
def setEntries {α : Type} {n : Nat} (f : Fin n → α) (ks : List (Fin n)) (x : Vector α n) : Vector α n :=
  ks.foldl (fun x k => x.set k.val (f k)) x

theorem getElem_setEntries {α : Type} {n : Nat} (f : Fin n → α) (ks : List (Fin n)) (x : Vector α n) (i : Fin n) :
    (setEntries f ks x)[i.val] = if i ∈ ks then f i else x[i.val] := by
  induction ks generalizing x with
  | nil => rfl
  | cons k ks ih =>
    rw [setEntries, List.foldl_cons]
    refine (ih (x.set k.val (f k))).trans ?_
    by_cases later : i ∈ ks
    · simp [later]
    · by_cases same : i = k
      · simp [same]
      · simp only [later, same, List.mem_cons, or_self, if_false]
        exact Vector.getElem_set_ne _ _ fun e => same (Fin.ext e.symm)

theorem getElem_setEntries_finRange {α : Type} {n : Nat} (f : Fin n → α) (x : Vector α n) (i : Fin n) :
    (setEntries f (List.finRange n) x)[i.val] = f i := by
  rw [getElem_setEntries, if_pos (List.mem_finRange i)]

/-! ### The transactions -/

theorem step_wrWord {s t : State} {off v : Nat} {rest : List Input} (up : s.rstn = true)
    (event : s.inputs = wrWord off v :: rest)
    (writes : memWrite (BitVec.ofNat 12 off) .four (BitVec.ofNat 32 v) (setInputs rest s) = t) : step s = .next t :=
  (step_write_of_rstn up event).trans (congrArg _ writes)

/-- Writes of DATA words, one by one. -/
theorem run_data_writes (value : Nat → Nat) (ks : List (Fin 8)) (s : State) (up : s.rstn = true)
    (idle : s.busy = false) :
    Host.Core.run Sys2Proof.core ks.length
        { s with inputs := ks.map fun k => wrWord (0x020 + 4 * k.val) (value k.val) } =
      .next { s with
        inputs := []
        data := setEntries (fun k => BitVec.ofNat 32 (value k.val)) ks s.data } := by
  induction ks generalizing s with
  | nil => rfl
  | cons k ks ih =>
    refine (run_succ_of_step (step_wrWord (by exact up) rfl ?_) _).trans
      (ih { s with data := s.data.set k.val (BitVec.ofNat 32 (value k.val)) } up idle)
    rw [memWrite_ofNat (r := .data k) rfl (by omega) (by omega)]
    exact writeOperand_of_idle (by exact idle) _

/-- The two writes of an entry of W, its lower half first. -/
def blockWrites (lo hi : Nat → Nat) (t : Nat) : List Input :=
  [wrWord (0x080 + 8 * t) (lo t), wrWord (0x084 + 8 * t) (hi t)]

/-- Writes of W, half by half. -/
theorem run_block_writes (lo hi : Nat → Nat) (ts : List (Fin 16)) (s : State) (up : s.rstn = true)
    (idle : s.busy = false) :
    Host.Core.run Sys2Proof.core (2 * ts.length)
        { s with inputs := ts.flatMap fun t => blockWrites lo hi t.val } =
      .next { s with
        inputs := []
        w := setEntries (fun t => BitVec.ofNat 32 (hi t.val) ++ BitVec.ofNat 32 (lo t.val)) ts s.w } := by
  induction ts generalizing s with
  | nil => rfl
  | cons t ts ih =>
    have both (x : Vector Lane 16) (l h : Word) :
        (x.set t.val (setLo x[t.val] l)).set t.val (setHi (x.set t.val (setLo x[t.val] l))[t.val] h) =
          x.set t.val (h ++ l) := by
      rw [Vector.set_set, Vector.getElem_set_self, setHi, loHalf_setLo]
    refine (run_succ_of_step (step_wrWord (by exact up) rfl (memWrite_wLo _ _ t (by exact idle))) _).trans
      ((run_succ_of_step (step_wrWord (by exact up) rfl (memWrite_wHi _ _ t (by exact idle))) _).trans ?_)
    refine Eq.trans ?_ (ih { s with
      w := s.w.set t.val (BitVec.ofNat 32 (hi t.val) ++ BitVec.ofNat 32 (lo t.val)) } up idle)
    rw [← both]
    rfl

/-! ### What the transactions leave -/

/-- The DATA buffer `ldata` leaves holds the bytes it was given (rule R88). -/
theorem dataBytes_of_words {b : List Byte} (length : b.length = 32) {d : Vector Word 8}
    (words : ∀ k : Fin 8, d[k.val] = BitVec.ofNat 32 (leValue (bytesAt b (4 * k.val) 4))) : dataBytes d = b := by
  refine List.ext_getElem (by simp [dataBytes, length]) fun n hn hn' => ?_
  have place : 4 * (n / 4) + n % 4 = n := Nat.div_add_mod n 4
  simp only [dataBytes, List.getElem_map, List.getElem_finRange, dataByte, Fin.val_cast]
  rw [words ⟨n / 4, by omega⟩, extractLsb'_ofNat_leValue b _ (by omega), place, List.getD_eq_getElem _ _ hn']

/-- Byte `j` of a W entry `ldblk` leaves, the most significant first (rule R91). -/
theorem extractLsb'_block_word (m : List Byte) {i : Nat} (long : i + 8 ≤ m.length) (j : Fin 8) :
    (BitVec.ofNat 32 (beValue (bytesAt m i 4)) ++ BitVec.ofNat 32 (beValue (bytesAt m (i + 4) 4))).extractLsb'
      (56 - 8 * j.val) 8 = m.getD (i + j.val) 0 := by
  by_cases upper : j.val < 4
  · have place : 56 - 8 * j.val - 32 = 24 - 8 * j.val := by omega
    rw [BitVec.extractLsb'_append_eq_of_le (by omega), place, extractLsb'_ofNat_beValue m i (by omega) upper]
  · have place : 56 - 8 * j.val = 24 - 8 * (j.val - 4) := by omega
    have index : i + 4 + (j.val - 4) = i + j.val := by omega
    rw [BitVec.extractLsb'_append_eq_of_add_le (by omega), place,
      extractLsb'_ofNat_beValue m (i + 4) (by omega) (by omega), index]

theorem length_leBytes (n v : Nat) : (leBytes n v).length = n := by
  rw [leBytes_eq_map_finRange, List.length_map, List.length_finRange]

theorem length_beBytes (n v : Nat) : (beBytes n v).length = n := by
  rw [beBytes, List.length_reverse, length_leBytes]

/-- Byte `j` of a 64-bit word, the most significant first. -/
theorem getD_beBytes (x : Lane) (j : Fin 8) : (beBytes 8 x.toNat).getD j.val 0 = x.extractLsb' (56 - 8 * j.val) 8 := by
  have place : 8 * (7 - j.val) = 56 - 8 * j.val := by omega
  rw [beBytes, List.getD_reverse _ (by rw [length_leBytes]; exact j.isLt), length_leBytes, leBytes_eq_map_finRange,
    List.getD_eq_getElem _ _ (by simp; omega)]
  apply BitVec.eq_of_toNat_eq
  simp [place, Nat.shiftRight_eq_div_pow]

/-- Entry `n * i + j` of strings of length `n` joined is entry `j` of string `i`. -/
theorem getD_flatMap_of_length {α β : Type} {f : α → List β} {n : Nat} (length : ∀ a, (f a).length = n) (l : List α)
    {i j : Nat} (hi : i < l.length) (hj : j < n) (b : β) : (l.flatMap f).getD (n * i + j) b = (f l[i]).getD j b := by
  induction l generalizing i with
  | nil => simp at hi
  | cons a l ih =>
    rw [List.flatMap_cons]
    cases i with
    | zero =>
      rw [Nat.mul_zero, Nat.zero_add, List.getD_append _ _ _ _ (by rwa [length])]
      rfl
    | succ i =>
      have place : n * (i + 1) + j - (f a).length = n * i + j := by rw [length, Nat.mul_succ]; omega
      rw [List.getD_append_right _ _ _ _ (by rw [length, Nat.mul_succ]; omega), place, ih (by simpa using hi)]
      rfl

/-- Settles O49: the transactions write each word once, and each word is made of its bytes. -/
theorem hostByteOrder : Obligations.HostByteOrder := by
  refine ⟨fun s b up idle length => ?ldata, fun s m up idle length => ?ldblk, fun h => ⟨?length, fun i j => ?digest⟩⟩
  case ldata =>
    exact ⟨_, run_data_writes (fun k => leValue (bytesAt b (4 * k) 4)) (List.finRange 8) s up idle,
      dataBytes_of_words length fun k => getElem_setEntries_finRange _ _ k⟩
  case ldblk =>
    refine ⟨_, run_block_writes (fun t => beValue (bytesAt m (8 * t + 4) 4)) (fun t => beValue (bytesAt m (8 * t) 4))
      (List.finRange 16) s up idle, fun t j => ?_⟩
    rw [getElem_setEntries_finRange, extractLsb'_block_word m (by omega)]
  case length => simp [digestBytes, length_beBytes, List.length_flatMap]
  case digest =>
    rw [digestBytes, getD_flatMap_of_length (fun x : Lane => length_beBytes 8 x.toNat) _ (by simp) j.isLt,
      getD_beBytes, Vector.getElem_toList]

end Sys2Proof.Machine
end

section
/-! PROOFS. The laws of the field on values (41_field_arith.md section 7): as residues modulo p, values are the elements
of a ring. -/

namespace Sys2Proof.Machine

open Sys2Proof.Config

/-- A value as a residue modulo p. -/
def residue (a : Fp) : ZMod P := (a.val : ZMod P)

/-- A value is determined by its residue. -/
theorem residue_inj {a b : Fp} : residue a = residue b ↔ a = b := by
  rw [residue, residue, ZMod.natCast_eq_natCast_iff', Nat.mod_eq_of_lt a.isLt, Nat.mod_eq_of_lt b.isLt, Fin.ext_iff]

@[simp] theorem residue_fpOfNat (n : Nat) : residue (fpOfNat n) = n := by
  rw [residue, fpOfNat_val, ZMod.natCast_mod]

@[simp] theorem residue_fpOfInt (z : Int) : residue (fpOfInt z) = z := by
  have cast : residue (fpOfInt z) = (((fpOfInt z).val : Int) : ZMod P) := (Int.cast_natCast _).symm
  rw [cast, fpOfInt_val, ZMod.intCast_mod]

@[simp] theorem residue_fpZero : residue fpZero = 0 := (residue_fpOfNat 0).trans Nat.cast_zero

@[simp] theorem residue_fpOne : residue fpOne = 1 := (residue_fpOfNat 1).trans Nat.cast_one

@[simp] theorem residue_fpAdd (a b : Fp) : residue (fpAdd a b) = residue a + residue b :=
  (residue_fpOfNat _).trans (Nat.cast_add _ _)

@[simp] theorem residue_fpSub (a b : Fp) : residue (fpSub a b) = residue a - residue b := by
  rw [fpSub, residue_fpOfInt, Int.cast_sub, Int.cast_natCast, Int.cast_natCast, residue, residue]

@[simp] theorem residue_fpMul (a b : Fp) : residue (fpMul a b) = residue a * residue b :=
  (residue_fpOfNat _).trans (Nat.cast_mul _ _)

/-- Settles O57: the ring laws of residues, and Fermat's little theorem for the inverse. -/
theorem fieldLaws : Obligations.FieldLaws := by
  intro x y z
  refine ⟨?_, ?_, ?_, ?_, ?_, ?_, ?_, ?_, ?_, fun nonzero => ?inverse⟩
  case inverse =>
    have value : x.val ≠ 0 := fun h => nonzero (Fin.ext h)
    exact Fin.ext ((fpMul_val _ _).trans ((mul_fpInv_val_mod value).trans fpOne_val.symm))
  all_goals
    rw [← residue_inj]
    simp only [residue_fpAdd, residue_fpMul, residue_fpSub, residue_fpZero, residue_fpOne]
    ring

end Sys2Proof.Machine
end

section
/-! SUPPORT. Limbs by their index, and a carry sweep (rules R37–R39, R197): it moves what exceeds each limb's width to
the next limb, and what exceeds 2^255 comes back times 19. -/

namespace Sys2Proof.Machine

open Sys2Proof.Config

/-- Limb `k`, and 0 from index 10 on. -/
def limbAt (l : Limbs) (k : Nat) : Int := if h : k < nLimb then l[k] else 0

theorem limbAt_of_lt (l : Limbs) {k : Nat} (h : k < nLimb) : limbAt l k = l[k] := dif_pos h

/-- The value of the limbs below limb `k`. -/
def partialSum (l : Limbs) (k : Nat) : Int := ∑ i ∈ Finset.range k, limbAt l i * 2 ^ limbWeight i

theorem partialSum_succ (l : Limbs) (k : Nat) :
    partialSum l (k + 1) = partialSum l k + limbAt l k * 2 ^ limbWeight k :=
  Finset.sum_range_succ _ _

theorem limbSum_eq_partialSum (l : Limbs) : limbSum l = partialSum l nLimb := by
  rw [limbSum_eq_sum, partialSum, ← Fin.sum_univ_eq_sum_range]
  exact Finset.sum_congr rfl fun i _ => by rw [limbAt_of_lt l i.isLt]

/-- The carry into limb `k` in a sweep: what the limbs below it have in excess of their width. -/
def carryIn (l : Limbs) (k : Nat) : Int := partialSum l k / 2 ^ limbWeight k

theorem carryIn_zero (l : Limbs) : carryIn l 0 = 0 := by
  simp [carryIn, partialSum]

/-- The carry out of limb `k` is the excess of the limb with the carry into it. -/
theorem carryIn_succ (l : Limbs) (k : Nat) : carryIn l (k + 1) = (limbAt l k + carryIn l k) / 2 ^ limbWidth k := by
  have positive : (0 : Int) < 2 ^ limbWeight k := by positivity
  rw [carryIn, partialSum_succ, limbWeight_succ, pow_add, ← Int.ediv_ediv_of_nonneg positive.le,
    Int.add_mul_ediv_right _ _ positive.ne', add_comm]
  rfl

/-- The first `n` carries of a sweep. -/
def carryFirst (n : Nat) (l : Limbs) : Limbs := ((List.finRange nLimb).take n).foldl carryAt l

theorem carryFirst_succ {n : Nat} (h : n < nLimb) (l : Limbs) :
    carryFirst (n + 1) l = carryAt (carryFirst n l) ⟨n, h⟩ := by
  rw [carryFirst, List.take_succ_eq_append_getElem (by simpa using h), List.foldl_append]
  simp [carryFirst]

theorem limbAt_set (l : Limbs) {k : Nat} (h : k < nLimb) (v : Int) (i : Nat) :
    limbAt (l.set k v) i = if i = k then v else limbAt l i := by
  unfold limbAt
  by_cases hi : i < nLimb
  · simp only [hi, dif_pos, Vector.getElem_set, eq_comm]
  · rw [dif_neg hi, dif_neg hi, if_neg (by omega)]

/-- One carry, limb by limb, away from the last limb. -/
theorem limbAt_carryAt (l : Limbs) {k : Nat} (h : k + 1 < nLimb) (i : Nat) :
    limbAt (carryAt l ⟨k, by omega⟩) i =
      if i = k + 1 then limbAt l (k + 1) + limbAt l k / 2 ^ limbWidth k
      else if i = k then limbAt l k % 2 ^ limbWidth k else limbAt l i := by
  simp only [carryAt, dif_pos h, limbAt_set, ← limbAt_of_lt, Int.emod_def, mul_comm]
  rw [if_neg k.succ_ne_self]

/-- The carry of the last limb. -/
theorem limbAt_carryAt_last (l : Limbs) (i : Nat) :
    limbAt (carryAt l 9) i =
      if i = 0 then limbAt l 0 + 19 * (limbAt l 9 / 2 ^ limbWidth 9)
      else if i = 9 then limbAt l 9 % 2 ^ limbWidth 9 else limbAt l i := by
  have last : ¬ (9 : Fin nLimb).val + 1 < nLimb := by decide
  simp only [carryAt, dif_neg last, limbAt_set, ← limbAt_of_lt, Int.emod_def, mul_comm]
  rfl

/-- After `n` carries, short of the last: the limbs below `n` are within their width and limb `n` has the carry. -/
theorem limbAt_carryFirst (l : Limbs) {n : Nat} (hn : n < nLimb) (i : Nat) :
    limbAt (carryFirst n l) i =
      if i < n then (limbAt l i + carryIn l i) % 2 ^ limbWidth i
      else if i = n then limbAt l i + carryIn l i else limbAt l i := by
  induction n generalizing i with
  | zero =>
    by_cases h : i = 0
    · simp [h, carryFirst, carryIn_zero]
    · simp [h, carryFirst]
  | succ n ih =>
    rw [carryFirst_succ (by omega), limbAt_carryAt _ hn]
    simp only [ih (by omega), lt_irrefl, if_false, if_true, ← carryIn_succ, n.lt_succ_self.not_gt,
      n.succ_ne_self]
    rcases lt_trichotomy i n with below | rfl | above
    · simp [below, below.ne, show i < n + 1 by omega, show i ≠ n + 1 by omega]
    · simp
    · by_cases next : i = n + 1
      · simp [next]
      · simp [above.not_gt, above.ne', next, show ¬ i < n + 1 by omega]

/-- A sweep, limb by limb: each limb within its width, and limb 0 with what the last limb exceeds, times 19. -/
theorem limbAt_carrySweep (l : Limbs) {i : Nat} (hi : i < nLimb) :
    limbAt (carrySweep l) i = (limbAt l i + carryIn l i) % 2 ^ limbWidth i +
      if i = 0 then 19 * carryIn l nLimb else 0 := by
  have last : limbAt (carryFirst 9 l) 9 = limbAt l 9 + carryIn l 9 := by
    simp [limbAt_carryFirst l (n := 9) (by decide)]
  have sweep : carrySweep l = carryAt (carryFirst 9 l) 9 := carryFirst_succ (n := 9) (by decide) l
  rw [sweep, limbAt_carryAt_last, last, ← carryIn_succ]
  rcases Nat.eq_zero_or_pos i with rfl | positive
  · simp [limbAt_carryFirst l (n := 9) (by decide)]
  · rw [if_neg positive.ne', if_neg positive.ne', add_zero]
    by_cases top : i = 9
    · rw [if_pos top, top]
    · have below : i < 9 := lt_of_le_of_ne (Nat.le_of_lt_succ hi) top
      rw [if_neg top, limbAt_carryFirst l (by decide), if_pos below]

/-! ### What a sweep does to the value -/

theorem sum_carried_limbs (l : Limbs) (n : Nat) :
    ∑ i ∈ Finset.range n, (limbAt l i + carryIn l i) % 2 ^ limbWidth i * 2 ^ limbWeight i =
      partialSum l n - 2 ^ limbWeight n * carryIn l n := by
  induction n with
  | zero => simp [partialSum, carryIn_zero]
  | succ n ih =>
    rw [Finset.sum_range_succ, ih, partialSum_succ, limbWeight_succ, pow_add, carryIn_succ, Int.emod_def]
    ring

/-- A sweep subtracts p for each 2^255 in the value. -/
theorem limbSum_carrySweep (l : Limbs) : limbSum (carrySweep l) = limbSum l - P * (limbSum l / 2 ^ 255) := by
  have carry : carryIn l nLimb = limbSum l / 2 ^ 255 := by rw [limbSum_eq_partialSum]; rfl
  have sum : limbSum (carrySweep l) =
      ∑ i ∈ Finset.range nLimb, (limbAt l i + carryIn l i) % 2 ^ limbWidth i * 2 ^ limbWeight i +
        19 * carryIn l nLimb := by
    have limb (i : Nat) (hi : i ∈ Finset.range nLimb) : limbAt (carrySweep l) i * 2 ^ limbWeight i =
        (limbAt l i + carryIn l i) % 2 ^ limbWidth i * 2 ^ limbWeight i +
          if i = 0 then 19 * carryIn l nLimb else 0 := by
      rw [limbAt_carrySweep l (Finset.mem_range.mp hi), add_mul, ite_mul, zero_mul]
      split
      next zero => rw [zero]; simp [limbWeight]
      next => rfl
    rw [limbSum_eq_partialSum, partialSum, Finset.sum_congr rfl limb, Finset.sum_add_distrib, Finset.sum_ite_eq']
    rfl
  have modulus : (P : Int) = 2 ^ 255 - 19 := by decide
  have weight : limbWeight nLimb = 255 := rfl
  rw [sum, sum_carried_limbs, ← limbSum_eq_partialSum, weight, carry, modulus]
  ring

/-- So it keeps the value modulo p. -/
theorem limbValue_carrySweep (l : Limbs) : limbValue (carrySweep l) = limbValue l := by
  rw [limbValue, limbValue, ← residue_inj, limbSum_carrySweep]
  simp

/-! ### Bounds -/

theorem sum_limbWeights_le : ∑ i : Fin nLimb, (2 : Int) ^ limbWeight i.val ≤ 2 ^ 231 := by decide

/-- Limbs within a bound have a value within the bound times 2^231. -/
theorem abs_limbSum_le {l : Limbs} {b : Int} (bounded : ∀ i : Fin nLimb, |l[i.val]| ≤ b) :
    |limbSum l| ≤ b * 2 ^ 231 := by
  have nonneg : 0 ≤ b := (abs_nonneg _).trans (bounded 0)
  calc |limbSum l| ≤ ∑ i : Fin nLimb, |l[i.val] * 2 ^ limbWeight i.val| := by
        rw [limbSum_eq_sum]
        exact Finset.abs_sum_le_sum_abs _ _
    _ ≤ ∑ i : Fin nLimb, b * 2 ^ limbWeight i.val := Finset.sum_le_sum fun i _ => by
        rw [abs_mul, abs_of_pos (by positivity : (0 : Int) < 2 ^ limbWeight i.val)]
        exact mul_le_mul_of_nonneg_right (bounded i) (by positivity)
    _ = b * ∑ i : Fin nLimb, (2 : Int) ^ limbWeight i.val := (Finset.mul_sum _ _ _).symm
    _ ≤ b * 2 ^ 231 := mul_le_mul_of_nonneg_left sum_limbWeights_le nonneg

theorem limbBound_le (d : Depth) : limbBound d ≤ B1 := by
  revert d
  decide

theorem LimbsBounded.abs_le {d : Depth} {l : Limbs} (h : LimbsBounded d l) (i : Fin nLimb) :
    |l[i.val]| ≤ (B1 : Int) := by
  have := (h i).trans (limbBound_le d)
  rw [Int.abs_eq_natAbs]
  exact_mod_cast this

end Sys2Proof.Machine
end

section
/-! PROOFS. FSTORE's canonical encoding from limbs (rule R166). -/

namespace Sys2Proof.Machine

open Sys2Proof.Config

/-- Three sweeps bring the value of bounded limbs into `[0, 2^255)`. -/
theorem limbSum_three_sweeps {l : Limbs} {d : Depth} (bounded : LimbsBounded d l) :
    0 ≤ limbSum (carrySweep (carrySweep (carrySweep l))) ∧
      limbSum (carrySweep (carrySweep (carrySweep l))) < 2 ^ 255 := by
  have bound : |limbSum l| ≤ (B1 : Int) * 2 ^ 231 := abs_limbSum_le bounded.abs_le
  rw [abs_le] at bound
  obtain ⟨lower, upper⟩ := bound
  simp only [limbSum_carrySweep, P_eq]
  simp only [B1, B0] at lower upper
  generalize limbSum l = n at lower upper
  omega

/-- Below 2^255 one conditional subtraction reduces modulo p. -/
theorem conditional_sub_eq_mod {n : Nat} (h : n < 2 ^ 255) : (if P ≤ n then n - P else n) = n % P := by
  rw [P_eq]
  split <;> omega

/-- Settles O55: the sweeps keep the value and bring it into the range of one conditional subtraction. -/
theorem limbStoreIsCanonical : Obligations.LimbStoreIsCanonical := by
  rintro l ⟨a, d⟩ ⟨rfl, bounded⟩
  obtain ⟨nonneg, small⟩ := limbSum_three_sweeps bounded
  have value : limbValue l = limbValue (carrySweep (carrySweep (carrySweep l))) := by
    rw [limbValue_carrySweep, limbValue_carrySweep, limbValue_carrySweep]
  have freeze : limbFreeze l = (limbValue l).val := by
    rw [value, limbValue]
    simp only [limbFreeze]
    generalize limbSum (carrySweep (carrySweep (carrySweep l))) = n at nonneg small
    lift n to Nat using nonneg
    rw [Int.toNat_natCast, conditional_sub_eq_mod (by exact_mod_cast small), fpOfInt_natCast, fpOfNat_val]
  rw [limbToBytes, freeze]

end Sys2Proof.Machine
end

section
/-! PROOFS. Products of limb vectors (rules R196, R197, R199). -/

namespace Sys2Proof.Machine

open Sys2Proof.Config

/-! ### Columns as sums over pairs of limbs -/

/-- The term of limbs `i` and `j` in their column (rule R196). -/
def pairTerm (f g : Limbs) (i j : Fin nLimb) : Int := oddPair i.val j.val * f[i.val] * g[j.val]

/-- Among the terms of `i` with each `j`, column `k` has the one of `k - i`, if there is a limb `k - i`. -/
theorem sum_eq_at_complement (t : Fin nLimb → Int) (i k : Nat) :
    (∑ j : Fin nLimb, if i + j.val = k then t j else 0) =
      if h : i ≤ k ∧ k - i < nLimb then t ⟨k - i, h.2⟩ else 0 := by
  split
  next inside =>
    obtain ⟨le, lt⟩ := inside
    rw [Finset.sum_eq_single (⟨k - i, lt⟩ : Fin nLimb), if_pos (Nat.add_sub_of_le le)]
    · exact fun j _ other => if_neg fun e => other (Fin.ext (by simp [← e]))
    · exact fun absent => absurd (Finset.mem_univ _) absent
  next outside =>
    exact Finset.sum_eq_zero fun j _ => if_neg fun e => outside (by omega)

/-- Column `k` is the sum over the pairs of limbs whose indices add up to `k`. -/
theorem rawColumn_eq_sum (f g : Limbs) (k : Nat) :
    rawColumn f g k = ∑ i : Fin nLimb, ∑ j : Fin nLimb, if i.val + j.val = k then pairTerm f g i j else 0 := by
  rw [rawColumn, ← Fin.sum_univ_def]
  exact Finset.sum_congr rfl fun i _ => (sum_eq_at_complement (pairTerm f g i) i.val k).symm

theorem limbWeight_add (i j : Nat) :
    limbWeight i + limbWeight j = limbWeight (i + j) + if i % 2 = 1 ∧ j % 2 = 1 then 1 else 0 := by
  unfold limbWeight
  split <;> omega

/-- The weights of two limbs and the factor of their term make the weight of their column (rules R38, R196). -/
theorem oddPair_mul_weight (i j : Nat) :
    oddPair i j * 2 ^ limbWeight (i + j) = 2 ^ limbWeight i * 2 ^ limbWeight j := by
  rw [← pow_add, limbWeight_add, oddPair]
  split <;> ring

/-- The twenty columns at their weights add up to the product of the values. -/
theorem sum_rawColumns (f g : Limbs) :
    ∑ k ∈ Finset.range 20, rawColumn f g k * 2 ^ limbWeight k = limbSum f * limbSum g := by
  have column (i j : Fin nLimb) : ∑ k ∈ Finset.range 20,
      (if i.val + j.val = k then pairTerm f g i j else 0) * 2 ^ limbWeight k =
        f[i.val] * 2 ^ limbWeight i.val * (g[j.val] * 2 ^ limbWeight j.val) := by
    have inRange : i.val + j.val ∈ Finset.range 20 :=
      Finset.mem_range.mpr (Nat.add_lt_add i.isLt j.isLt : _ < nLimb + nLimb)
    simp only [ite_mul, zero_mul]
    rw [Finset.sum_ite_eq, if_pos inRange, pairTerm]
    calc oddPair i.val j.val * f[i.val] * g[j.val] * 2 ^ limbWeight (i.val + j.val)
        = oddPair i.val j.val * 2 ^ limbWeight (i.val + j.val) * (f[i.val] * g[j.val]) := by ring
      _ = f[i.val] * 2 ^ limbWeight i.val * (g[j.val] * 2 ^ limbWeight j.val) := by
        rw [oddPair_mul_weight]
        ring
  simp only [rawColumn_eq_sum, Finset.sum_mul]
  rw [Finset.sum_comm]
  simp only [fun i : Fin nLimb => Finset.sum_comm (s := Finset.range 20) (t := Finset.univ)
    (f := fun k (j : Fin nLimb) => (if i.val + j.val = k then pairTerm f g i j else 0) * 2 ^ limbWeight k), column]
  rw [limbSum_eq_sum, limbSum_eq_sum, Finset.sum_mul_sum]

theorem limbColumns_getElem (f g : Limbs) (k : Fin nLimb) : (limbColumns f g)[k.val] = foldedColumn f g k.val := by
  simp [limbColumns]

theorem limbWeight_add_ten (k : Nat) : limbWeight (k + 10) = limbWeight k + 255 := by
  unfold limbWeight
  omega

/-- Folding the upper ten columns times 19 takes p times their value from the product. -/
theorem limbSum_limbColumns (f g : Limbs) : limbSum (limbColumns f g) =
    limbSum f * limbSum g - P * ∑ k ∈ Finset.range 10, rawColumn f g (k + 10) * 2 ^ limbWeight k := by
  have modulus : (P : Int) = 2 ^ 255 - 19 := by decide
  have split : ∑ k ∈ Finset.range 20, rawColumn f g k * 2 ^ limbWeight k = ∑ k ∈ Finset.range 10,
      (rawColumn f g k * 2 ^ limbWeight k + rawColumn f g (k + 10) * 2 ^ limbWeight (k + 10)) := by
    rw [Finset.sum_range_add _ 10 10, Finset.sum_add_distrib]
    simp only [Nat.add_comm 10]
  rw [limbSum_eq_sum, ← sum_rawColumns, split, Finset.mul_sum, ← Finset.sum_sub_distrib]
  simp only [limbColumns_getElem]
  rw [Fin.sum_univ_eq_sum_range fun k => foldedColumn f g k * 2 ^ limbWeight k]
  refine Finset.sum_congr rfl fun k _ => ?_
  rw [foldedColumn, limbWeight_add_ten, pow_add, modulus]
  ring

theorem limbValue_limbColumns (f g : Limbs) : limbValue (limbColumns f g) = fpMul (limbValue f) (limbValue g) := by
  rw [← residue_inj, limbValue, limbSum_limbColumns]
  simp [limbValue]

/-! ### Bounds of the columns -/

/-- The vector of ones: its columns count the terms of a column, with their factors. -/
def onesLimbs : Limbs := Vector.replicate nLimb 1

theorem oddPair_nonneg (i j : Nat) : 0 ≤ oddPair i j := by
  unfold oddPair
  split <;> decide

theorem abs_rawColumn_le {f g : Limbs} {b : Int} (hf : ∀ i : Fin nLimb, |f[i.val]| ≤ b)
    (hg : ∀ i : Fin nLimb, |g[i.val]| ≤ b) (k : Nat) : |rawColumn f g k| ≤ rawColumn onesLimbs onesLimbs k * b ^ 2 := by
  have nonneg : 0 ≤ b := (abs_nonneg _).trans (hf 0)
  have ones (i : Fin nLimb) : onesLimbs[i.val] = 1 := by simp [onesLimbs]
  have term (i j : Fin nLimb) : |pairTerm f g i j| ≤ oddPair i.val j.val * b ^ 2 := by
    rw [pairTerm, abs_mul, abs_mul, abs_of_nonneg (oddPair_nonneg _ _), mul_assoc, pow_two]
    exact mul_le_mul_of_nonneg_left (mul_le_mul (hf i) (hg j) (abs_nonneg _) nonneg) (oddPair_nonneg _ _)
  simp only [rawColumn_eq_sum, Finset.sum_mul]
  refine (Finset.abs_sum_le_sum_abs _ _).trans (Finset.sum_le_sum fun i _ => ?_)
  refine (Finset.abs_sum_le_sum_abs _ _).trans (Finset.sum_le_sum fun j _ => ?_)
  split
  · simpa [pairTerm, ones] using term i j
  · simp

/-- A folded column has at most 267 terms, with their factors (column 0). -/
theorem foldedColumn_ones_le : ∀ k : Fin nLimb, foldedColumn onesLimbs onesLimbs k.val ≤ 267 := by decide

theorem abs_foldedColumn_le {f g : Limbs} {b : Int} (hf : ∀ i : Fin nLimb, |f[i.val]| ≤ b)
    (hg : ∀ i : Fin nLimb, |g[i.val]| ≤ b) (k : Fin nLimb) : |foldedColumn f g k.val| ≤ 267 * b ^ 2 := by
  have low := abs_rawColumn_le hf hg k.val
  have high := abs_rawColumn_le hf hg (k.val + 10)
  calc |foldedColumn f g k.val| ≤ |rawColumn f g k.val| + 19 * |rawColumn f g (k.val + 10)| := by
        refine (abs_add_le _ _).trans_eq ?_
        rw [abs_mul]
        rfl
    _ ≤ foldedColumn onesLimbs onesLimbs k.val * b ^ 2 := by
        rw [foldedColumn]
        linarith
    _ ≤ 267 * b ^ 2 := mul_le_mul_of_nonneg_right (foldedColumn_ones_le k) (sq_nonneg b)

/-- The columns of limbs within the depth-1 bound fit a signed 64-bit accumulator. -/
theorem abs_foldedColumn_lt {d e : Depth} {f g : Limbs} (hf : LimbsBounded d f) (hg : LimbsBounded e g)
    (k : Fin nLimb) : |foldedColumn f g k.val| < 2 ^ 63 :=
  (abs_foldedColumn_le hf.abs_le hg.abs_le k).trans_lt (by decide)

/-- Settles O52: the columns are a sum of at most 267 products of two limbs, and their weights are those of the
limbs. -/
theorem multiplierColumnsFit : Obligations.MultiplierColumnsFit := by
  rintro f g ⟨a, d⟩ ⟨b, e⟩ ⟨rfl, hf⟩ ⟨rfl, hg⟩
  refine ⟨fun k => ?_, limbValue_limbColumns f g⟩
  have := abs_foldedColumn_lt hf hg k
  rw [Int.abs_eq_natAbs] at this
  exact_mod_cast this

/-! ### Two sweeps -/

theorem limbValue_limbMul (f g : Limbs) : limbValue (limbMul f g) = fpMul (limbValue f) (limbValue g) := by
  rw [limbMul, limbValue_carrySweep, limbValue_carrySweep, limbValue_limbColumns]

/-- After a sweep of 64-bit limbs the value exceeds `[0, 2^255)` by less than 2^255. -/
theorem limbSum_carrySweep_div {l : Limbs} (bounded : ∀ i : Fin nLimb, |l[i.val]| ≤ 2 ^ 63) :
    -1 ≤ limbSum (carrySweep l) / 2 ^ 255 ∧ limbSum (carrySweep l) / 2 ^ 255 ≤ 1 := by
  have bound := abs_limbSum_le bounded
  rw [abs_le] at bound
  obtain ⟨lower, upper⟩ := bound
  simp only [limbSum_carrySweep, P_eq]
  generalize limbSum l = n at lower upper
  omega

/-- The limbs after two sweeps of 64-bit limbs: limb 0 has what the second carry brings, the others their width
(rule R197). -/
theorem two_sweeps_bounds {l : Limbs} (bounded : ∀ i : Fin nLimb, |l[i.val]| ≤ 2 ^ 63) :
    -19 ≤ (carrySweep (carrySweep l))[0] ∧ (carrySweep (carrySweep l))[0] ≤ 2 ^ 26 + 18 ∧
      ∀ i : Fin nLimb, i.val ≠ 0 →
        0 ≤ (carrySweep (carrySweep l))[i.val] ∧ (carrySweep (carrySweep l))[i.val] < 2 ^ limbWidth i.val := by
  obtain ⟨lower, upper⟩ := limbSum_carrySweep_div bounded
  have carry : carryIn (carrySweep l) nLimb = limbSum (carrySweep l) / 2 ^ 255 := by rw [limbSum_eq_partialSum]; rfl
  have limb (i : Fin nLimb) : (carrySweep (carrySweep l))[i.val] =
      (limbAt (carrySweep l) i.val + carryIn (carrySweep l) i.val) % 2 ^ limbWidth i.val +
        if i.val = 0 then 19 * carryIn (carrySweep l) nLimb else 0 :=
    (limbAt_of_lt _ i.isLt).symm.trans (limbAt_carrySweep _ i.isLt)
  have width (x : Int) (k : Nat) : 0 ≤ x % 2 ^ limbWidth k ∧ x % 2 ^ limbWidth k < 2 ^ limbWidth k :=
    ⟨Int.emod_nonneg _ (by positivity), Int.emod_lt_of_pos _ (by positivity)⟩
  have first := limb 0
  have first26 := width (limbAt (carrySweep l) 0 + carryIn (carrySweep l) 0) 0
  have width0 : (2 : Int) ^ limbWidth 0 = 2 ^ 26 := rfl
  rw [width0] at first26
  simp only [Fin.val_zero, if_true, width0, carry] at first
  rw [first]
  refine ⟨by omega, by omega, fun i hi => ?_⟩
  rw [limb i, if_neg hi, add_zero]
  exact width _ _

/-- So they are within the depth-0 bound. -/
theorem limbsBounded_of_ranges {l : Limbs} (first : -19 ≤ l[0] ∧ l[0] ≤ 2 ^ 26 + 18)
    (rest : ∀ i : Fin nLimb, i.val ≠ 0 → 0 ≤ l[i.val] ∧ l[i.val] < 2 ^ limbWidth i.val) : LimbsBounded 0 l := by
  intro i
  have bound : limbBound 0 = 2 ^ 26 + 2 ^ 6 := rfl
  rw [bound]
  by_cases zero : i.val = 0
  · obtain rfl : i = 0 := Fin.ext zero
    obtain ⟨lo, hi⟩ := first
    simp only [Fin.val_zero]
    omega
  · obtain ⟨lo, hi⟩ := rest i zero
    have width : (2 : Int) ^ limbWidth i.val ≤ 2 ^ 26 := pow_le_pow_right₀ (by decide) (limbWidth_le i.val)
    omega

theorem limbMul_bounds {d e : Depth} {f g : Limbs} (hf : LimbsBounded d f) (hg : LimbsBounded e g) :
    -19 ≤ (limbMul f g)[0] ∧ (limbMul f g)[0] ≤ 2 ^ 26 + 18 ∧
      ∀ i : Fin nLimb, i.val ≠ 0 → 0 ≤ (limbMul f g)[i.val] ∧ (limbMul f g)[i.val] < 2 ^ limbWidth i.val :=
  two_sweeps_bounds fun i => by
    rw [limbColumns_getElem]
    exact (abs_foldedColumn_lt hf hg i).le

/-- The limbs of a product of limbs of either depth are of depth 0. -/
theorem limbsBounded_limbMul {d e : Depth} {f g : Limbs} (hf : LimbsBounded d f) (hg : LimbsBounded e g) :
    LimbsBounded 0 (limbMul f g) := by
  obtain ⟨lo, hi, rest⟩ := limbMul_bounds hf hg
  exact limbsBounded_of_ranges ⟨lo, hi⟩ rest

/-- Settles O53: the sweeps keep the value of the columns and bring the limbs into their ranges. -/
theorem limbMulRepresentsTheProduct : Obligations.LimbMulRepresentsTheProduct := by
  rintro f g ⟨a, d⟩ ⟨b, e⟩ ⟨rfl, hf⟩ ⟨rfl, hg⟩
  exact ⟨⟨limbValue_limbMul f g, limbsBounded_limbMul hf hg⟩, limbMul_bounds hf hg⟩

end Sys2Proof.Machine
end

section
/-! PROOFS. The symmetric squaring (rule R199). -/

namespace Sys2Proof.Machine

open Sys2Proof.Config

/-- A symmetric sum over pairs is twice its part above the diagonal, and the diagonal. -/
theorem sum_symm_eq {n : Nat} (t : Fin n → Fin n → Int) (symm : ∀ i j, t i j = t j i) :
    ∑ i, ∑ j, t i j = (∑ i, ∑ j, if i < j then 2 * t i j else 0) + ∑ i, t i i := by
  have term (i j : Fin n) : t i j =
      (if i < j then t i j else 0) + (if j < i then t j i else 0) + if i = j then t i i else 0 := by
    rcases lt_trichotomy i j with h | rfl | h
    · simp [h, h.not_gt, h.ne]
    · simp
    · simp [h, h.not_gt, h.ne', symm i j]
  have swap : ∑ i, ∑ j, (if j < i then t j i else 0) = ∑ i, ∑ j, if i < j then t i j else 0 := Finset.sum_comm
  have twice (i j : Fin n) : (if i < j then 2 * t i j else 0) = 2 * if i < j then t i j else 0 := by
    rw [mul_ite, mul_zero]
  have diagonal (i : Fin n) : (∑ j, if i = j then t i i else 0) = t i i := by simp
  calc ∑ i, ∑ j, t i j
      = (∑ i, ∑ j, if i < j then t i j else 0) + (∑ i, ∑ j, if j < i then t j i else 0) + ∑ i, t i i := by
        rw [Finset.sum_congr rfl fun i _ => Finset.sum_congr rfl fun j _ => term i j]
        simp only [Finset.sum_add_distrib, diagonal]
    _ = (∑ i, ∑ j, if i < j then 2 * t i j else 0) + ∑ i, t i i := by
        rw [swap]
        simp only [twice, ← Finset.mul_sum]
        ring

theorem pairTerm_self_comm (f : Limbs) (i j : Fin nLimb) : pairTerm f f i j = pairTerm f f j i := by
  have factor : oddPair i.val j.val = oddPair j.val i.val := by simp only [oddPair, and_comm]
  rw [pairTerm, pairTerm, factor]
  ring

/-- The square's symmetric column is the product's. -/
theorem squareColumn_eq (f : Limbs) (k : Nat) : squareColumn f k = rawColumn f f k := by
  have above (i : Fin nLimb) :
      (∑ j : Fin nLimb, if i < j then 2 * (if i.val + j.val = k then pairTerm f f i j else 0) else 0) =
        if h : i.val < k - i.val ∧ k - i.val < nLimb then
          2 * oddPair i.val (k - i.val) * f[i.val] * f[k - i.val] else 0 := by
    have reorder (j : Fin nLimb) : (if i < j then 2 * (if i.val + j.val = k then pairTerm f f i j else 0) else 0) =
        if i.val + j.val = k then (if i < j then 2 * pairTerm f f i j else 0) else 0 := by
      split_ifs <;> simp
    simp only [reorder, sum_eq_at_complement]
    by_cases inside : i.val < k - i.val ∧ k - i.val < nLimb
    · have less : i < ⟨k - i.val, inside.2⟩ := inside.1
      rw [dif_pos inside, dif_pos ⟨by omega, inside.2⟩, if_pos less, pairTerm]
      ring
    · rw [dif_neg inside]
      split
      next present => exact if_neg fun less => inside ⟨less, present.2⟩
      next => rfl
  have diagonal : (∑ i : Fin nLimb, if i.val + i.val = k then pairTerm f f i i else 0) =
      if h : k % 2 = 0 ∧ k / 2 < nLimb then oddPair (k / 2) (k / 2) * (f[k / 2] * f[k / 2]) else 0 := by
    split
    next inside =>
      obtain ⟨even, lt⟩ := inside
      rw [Finset.sum_eq_single (⟨k / 2, lt⟩ : Fin nLimb), if_pos (by simp only; omega), pairTerm, mul_assoc]
      · exact fun i _ other => if_neg fun e => other (Fin.ext (by simp only; omega))
      · exact fun absent => absurd (Finset.mem_univ _) absent
    next outside =>
      exact Finset.sum_eq_zero fun i _ => if_neg fun e => outside ⟨by omega, by omega⟩
  rw [rawColumn_eq_sum, sum_symm_eq _ fun i j => by rw [pairTerm_self_comm, Nat.add_comm], diagonal,
    Finset.sum_congr rfl fun i _ => above i, squareColumn, Fin.sum_univ_def]
  rfl

/-- Settles O54: the columns are the same, and so are the sweeps. -/
theorem symmetricSquareIsTheProduct : Obligations.SymmetricSquareIsTheProduct := by
  intro f
  have columns : squareColumns f = limbColumns f f := by
    simp only [squareColumns, limbColumns, foldedColumn, squareColumn_eq]
  exact ⟨columns, by rw [limbSqr, columns, limbMul]⟩

end Sys2Proof.Machine
end

section
/-! PROOFS. The addition chain of FINV (rule R201): what relates the operands of two chains relates their results. -/

namespace Sys2Proof.Machine

open Sys2Proof.Config

theorem chainGet_chainSet {α : Type} (r : ChainRegs α) (n m : ChainReg) (v : α) :
    chainGet (chainSet r n v) m = if m = n then v else chainGet r m := by
  cases n <;> cases m <;> rfl

/-- Two chains hold related elements under each name. -/
def ChainRelated {α β : Type} (rel : α → β → Prop) (r : ChainRegs α) (r' : ChainRegs β) : Prop :=
  ∀ n, rel (chainGet r n) (chainGet r' n)

section
variable {α β : Type} {mul : α → α → α} {sqr : α → α} {mul' : β → β → β} {sqr' : β → β} {rel : α → β → Prop}

theorem ChainRelated.chainSet {r : ChainRegs α} {r' : ChainRegs β} (h : ChainRelated rel r r') (n : ChainReg) {v : α}
    {v' : β} (hv : rel v v') : ChainRelated rel (chainSet r n v) (chainSet r' n v') := by
  intro m
  rw [chainGet_chainSet, chainGet_chainSet]
  split
  · exact hv
  · exact h m

theorem squareTimes_related (hsqr : ∀ x x', rel x x' → rel (sqr x) (sqr' x')) (n : Nat) {x : α} {x' : β}
    (hx : rel x x') : rel (squareTimes sqr n x) (squareTimes sqr' n x') := by
  induction n generalizing x x' with
  | zero => exact hx
  | succ n ih => exact ih (hsqr x x' hx)

theorem chainStep_related (hsqr : ∀ x x', rel x x' → rel (sqr x) (sqr' x'))
    (hmul : ∀ x x' y y', rel x x' → rel y y' → rel (mul x y) (mul' x' y')) {r : ChainRegs α} {r' : ChainRegs β}
    (h : ChainRelated rel r r') (op : ChainOp) :
    ChainRelated rel (chainStep mul sqr r op) (chainStep mul' sqr' r' op) := by
  cases op with
  | square n dst src => exact h.chainSet dst (squareTimes_related hsqr n (h src))
  | mult dst x y => exact h.chainSet dst (hmul _ _ _ _ (h x) (h y))

theorem foldl_chainStep_related (hsqr : ∀ x x', rel x x' → rel (sqr x) (sqr' x'))
    (hmul : ∀ x x' y y', rel x x' → rel y y' → rel (mul x y) (mul' x' y')) (ops : List ChainOp) {r : ChainRegs α}
    {r' : ChainRegs β} (h : ChainRelated rel r r') :
    ChainRelated rel (ops.foldl (chainStep mul sqr) r) (ops.foldl (chainStep mul' sqr') r') := by
  induction ops generalizing r r' with
  | nil => exact h
  | cons op ops ih => exact ih (chainStep_related hsqr hmul h op)

/-- The chain ends in a multiplication, so its result has what multiplication gives beyond the relation. -/
theorem invertChain_related {result : α → β → Prop} (weaken : ∀ x x', result x x' → rel x x')
    (hsqr : ∀ x x', rel x x' → rel (sqr x) (sqr' x'))
    (hmul : ∀ x x' y y', rel x x' → rel y y' → result (mul x y) (mul' x' y')) {z : α} {z' : β} (hz : rel z z') :
    result (invertChain mul sqr z) (invertChain mul' sqr' z') := by
  have start : ChainRelated rel (⟨z, z, z, z, z, z⟩ : ChainRegs α) ⟨z', z', z', z', z', z'⟩ := fun n => by
    cases n <;> exact hz
  have before := foldl_chainStep_related hsqr (fun x x' y y' hx hy => weaken _ _ (hmul x x' y y' hx hy))
    invertSteps.dropLast start
  exact hmul _ _ _ _ (before .t1) (before .t0)

end

theorem invertChain_exponent : invertChain (fun x y : Nat => x + y) (fun x => 2 * x) 1 = P - 2 := by decide +kernel

/-- Multiplying powers adds their exponents. -/
theorem fpMul_fpOfNat_pow (a x y : Nat) :
    fpMul (fpOfNat (a ^ x)) (fpOfNat (a ^ y)) = fpOfNat (a ^ (x + y)) := by
  rw [← residue_inj]
  simp [pow_add]

/-- On values the chain computes the power its exponents add up to. -/
theorem invertChain_fp (a : Fp) : invertChain fpMul fpSqr a = fpInv a := by
  have power := invertChain_related (mul := fun x y : Nat => x + y) (sqr := fun x => 2 * x) (mul' := fpMul)
    (sqr' := fpSqr) (rel := fun e v => v = fpOfNat (a.val ^ e)) (result := fun e v => v = fpOfNat (a.val ^ e))
    (fun _ _ h => h) (by rintro e _ rfl; rw [fpSqr_eq_fpMul, fpMul_fpOfNat_pow, two_mul])
    (by rintro x _ y _ rfl rfl; exact fpMul_fpOfNat_pow _ x y) (z := 1) (z' := a) (by simp)
  rw [power, invertChain_exponent]
  exact Fin.ext ((fpOfNat_val _).trans (fpInv_val a).symm)

theorem LimbsBounded.depth_one {d : Depth} {l : Limbs} (h : LimbsBounded d l) : LimbsBounded 1 l :=
  fun i => (h i).trans (limbBound_le d)

/-- On limbs the chain computes limbs that represent the inverse at depth 0. -/
theorem limbInvert_represents {l : Limbs} {d : Depth} (bounded : LimbsBounded d l) :
    limbValue (limbInvert l) = fpInv (limbValue l) ∧ LimbsBounded 0 (limbInvert l) := by
  have product (f : Limbs) (a : Fp) (g : Limbs) (b : Fp) (hf : limbValue f = a ∧ LimbsBounded 1 f)
      (hg : limbValue g = b ∧ LimbsBounded 1 g) :
      limbValue (limbMul f g) = fpMul a b ∧ LimbsBounded 0 (limbMul f g) := by
    obtain ⟨rfl, hf⟩ := hf
    obtain ⟨rfl, hg⟩ := hg
    exact ⟨limbValue_limbMul f g, limbsBounded_limbMul hf hg⟩
  have weaken (f : Limbs) (a : Fp) (h : limbValue f = a ∧ LimbsBounded 0 f) : limbValue f = a ∧ LimbsBounded 1 f :=
    ⟨h.1, h.2.depth_one⟩
  rw [← invertChain_fp, limbInvert]
  refine invertChain_related (rel := fun f a => limbValue f = a ∧ LimbsBounded 1 f)
    (result := fun f a => limbValue f = a ∧ LimbsBounded 0 f) weaken (fun f a hf => ?_) product ⟨rfl, bounded.depth_one⟩
  rw [(symmetricSquareIsTheProduct f).2, fpSqr_eq_fpMul]
  exact weaken _ _ (product f a f a hf hf)

/-- Settles O56: the chain is followed on exponents, on values and on limbs. -/
theorem inversionChainComputesTheInverse : Obligations.InversionChainComputesTheInverse := by
  refine ⟨invertChain_exponent, by decide, by decide, invertChain_fp, ?_⟩
  rintro l ⟨a, d⟩ ⟨rfl, bounded⟩
  exact limbInvert_represents bounded

end Sys2Proof.Machine
end
